-- ==== Sys2Proof/Word.lean ====
section
/-! DEFINITION. The words of the Engine: 16-bit request words, bytes and nibbles (00_scope.md R8, R10).
Everything is unsigned (R10). -/

namespace Sys2Proof

/-- A byte: a command byte, a character, a host code (R8, R37, R71). -/
abbrev Byte := BitVec 8

/-- One nibble, the 4-bit half of a byte (R14). -/
abbrev Nibble := BitVec 4

/-- A request word, format `REQ16` (R56). -/
abbrev ReqWord := BitVec 16

end Sys2Proof
end

