-- ==== Sys2Proof/Config.lean ====
section
/-! DEFINITION. The parameters of 00_scope.md R8 that the spec leaves open or marks as a decision: plain data,
fixed for one machine. `State` holds one `Config`, no step writes it, and a statement over every state holds for
every value of every parameter. The values the source fixes (delays, capacity, newline) stand with the operations
that use them, in `Machine/Operands.lean`. -/

namespace Sys2Proof

/-- `ROW_OVERFLOW_POLICY` (R8, R120, 92_eei_decisions.md D20): what the host does for a row of 2 or more. -/
inductive RowPolicy
  | reject
  | clamp
  deriving DecidableEq, Repr

/-- `HOST_CODE_MAP` (R72, D22): the code byte of each of the seven host commands. -/
structure HostCodeMap where
  writeValue : Byte
  readValue : Byte
  clearScreen : Byte
  backlightOn : Byte
  backlightOff : Byte
  shift : Byte
  cursorReturn : Byte
  deriving DecidableEq, Repr

/-- The codes the map assigns; every other code is unrecognized (R72, R134). -/
def HostCodeMap.codes (m : HostCodeMap) : List Byte :=
  [m.writeValue, m.readValue, m.clearScreen, m.backlightOn, m.backlightOff, m.shift, m.cursorReturn]

/-- The placeholder values of R72. -/
def HostCodeMap.placeholder : HostCodeMap where
  writeValue := 0x00#8
  readValue := 0x01#8
  clearScreen := 0x02#8
  backlightOn := 0x03#8
  backlightOff := 0x04#8
  shift := 0x05#8
  cursorReturn := 0x06#8

/-- The parameters of R8. `tickNum / tickDen` microseconds is `T_TICK` (OPEN, D11); `powerOn` is `T_POWERON` in
microseconds (D17). -/
structure Config where
  tickNum : Nat
  tickDen : Nat
  powerOn : Nat
  initEmit0C : Bool
  blResetLevel : Bool
  rowOverflow : RowPolicy
  hostCodes : HostCodeMap
  deriving DecidableEq, Repr

/-- The values R8 gives this hardware: `T_POWERON` = 0, `INIT_EMIT_0C` = true, `BL_RESET_LEVEL` = 0, policy
REJECT, the placeholder codes. `T_TICK` is OPEN: 1 microsecond here is a DESIGN CHOICE (notes/assumptions/1.md);
unsafe for a claim that used the number, and no statement does. -/
def Config.default : Config where
  tickNum := 1
  tickDen := 1
  powerOn := 0
  initEmit0C := true
  blResetLevel := false
  rowOverflow := .reject
  hostCodes := .placeholder

end Sys2Proof
end

