-- ==== Sys2Proof/Syntax.lean ====
section
/-! DEFINITION. The instruction set: the nine requests of the Engine (30_encoding.md R58) and the eight host
commands (R72), one constructor for each row of spec/opcode_table.json. -/

namespace Sys2Proof

/-- Register-select (R14, R59): 0 command, 1 data (characters). -/
inductive RegSel
  | cmd
  | data
  deriving DecidableEq, Repr

/-- `TGT` of SHIFT (R62): 0 CURSOR, 1 DISPLAY. -/
inductive ShiftTarget
  | cursor
  | display
  deriving DecidableEq, Repr

/-- `DIR` of SHIFT (R62): 0 LEFT, 1 RIGHT. -/
inductive ShiftDir
  | left
  | right
  deriving DecidableEq, Repr

/-- One constructor per row of the opcode table. -/
inductive Instr
  /-- WRITE_NIBBLE, R92. -/
  | writeNibble (rs : RegSel) (nib : Nibble)
  /-- WRITE_BYTE, R93. -/
  | writeByte (rs : RegSel) (byte : Byte)
  /-- INIT, R102. -/
  | init
  /-- CLEAR_SCREEN, R94. -/
  | clearScreen
  /-- CURSOR_RETURN, R95. -/
  | cursorReturn
  /-- SHIFT, R96. -/
  | shift (tgt : ShiftTarget) (dir : ShiftDir)
  /-- SET_CURSOR_ROW, R98 and R99. -/
  | setCursorRow (row : Byte)
  /-- SET_BACKLIGHT, R100. -/
  | setBacklight (on : Bool)
  /-- DETACH, R113. -/
  | detach
  /-- WRITE_VALUE, R121. -/
  | writeValue (bytes : List Byte)
  /-- READ_VALUE, R128. -/
  | readValue
  /-- CLEAR_SCREEN of the host layer, R129. -/
  | hostClearScreen
  /-- BACKLIGHT_ON, R130. -/
  | backlightOn
  /-- BACKLIGHT_OFF, R131. -/
  | backlightOff
  /-- SHIFT of the host layer, R132. -/
  | hostShift (tgt : ShiftTarget) (dir : ShiftDir)
  /-- CURSOR_RETURN of the host layer, R133. -/
  | hostCursorReturn
  /-- An unrecognized host code with whatever payload came with it, R134. -/
  | hostUnrecognized (code : Byte) (payload : List Byte)
  deriving DecidableEq, Repr

/-- An instruction as it is presented: a request word (R56), or a host code with its payload bytes (R71). -/
inductive Code
  | request (w : ReqWord)
  | command (hc : Byte) (payload : List Byte)
  deriving DecidableEq, Repr

/-- Why bits are no instruction. -/
inductive Reject
  /-- `OP` is 0x0 or 0xA to 0xF (R67). -/
  | reservedOpcode
  /-- A reserved bit of R66 is 1. -/
  | reservedField
  /-- A host payload whose shape does not fit its code (R71, R135). -/
  | malformedPayload
  deriving DecidableEq, Repr

/-- The nine requests of the Engine's port, as against the host commands. -/
def Instr.isRequest : Instr → Bool
  | .writeNibble _ _ | .writeByte _ _ | .init | .clearScreen | .cursorReturn | .shift _ _ | .setCursorRow _
  | .setBacklight _ | .detach => true
  | .writeValue _ | .readValue | .hostClearScreen | .backlightOn | .backlightOff | .hostShift _ _
  | .hostCursorReturn | .hostUnrecognized _ _ => false

end Sys2Proof
end

