-- ==== Sys2Proof/WellFormed.lean ====
section
/-! DEFINITION. Well-formedness. The operand widths of R57 to R65 are the operands' types, so every request is
well-formed; what is left to check is that an unrecognized host code is none of the assigned ones, and that the
code map assigns seven different codes (30_encoding.md R72). -/

namespace Sys2Proof

/-- The seven codes differ, or a code byte would name two commands (R71, 90_conflicts.md C1). -/
abbrev HostCodeMap.wf (m : HostCodeMap) : Prop := m.codes.Nodup

/-- An instruction is well-formed under a host code map when each of its operands is one the encoding can write:
`hostUnrecognized` needs a code the map does not assign (R134). -/
def Instr.wfB (m : HostCodeMap) : Instr → Bool
  | .writeNibble _ _ | .writeByte _ _ | .init | .clearScreen | .cursorReturn | .shift _ _ | .setCursorRow _
  | .setBacklight _ | .detach | .writeValue _ | .readValue | .hostClearScreen | .backlightOn | .backlightOff
  | .hostShift _ _ | .hostCursorReturn => true
  | .hostUnrecognized code _ => !m.codes.contains code

/-- Well-formedness as a proposition. -/
abbrev Instr.wf (m : HostCodeMap) (i : Instr) : Prop := i.wfB m = true

/-- `T_TICK` is a positive duration (R8, 93_implementation_defined.md I13) and the code map is well-formed. -/
abbrev Config.wf (c : Config) : Prop := 0 < c.tickNum ∧ 0 < c.tickDen ∧ c.hostCodes.wf

end Sys2Proof
end

