-- ==== Sys2Proof/Decode.lean ====
section
/-! DEFINITION. Decoding request words (30_encoding.md R69) and host commands (R72), total on every word and every
byte sequence, and the encoder written from the same tables (R57 to R66, R76). -/

namespace Sys2Proof

/-- R59: bit 8 is register-select as it stands. -/
def RegSel.ofBit (b : Bool) : RegSel := if b then .data else .cmd

/-- R62: `TGT` = 1 is DISPLAY. -/
def ShiftTarget.ofBit (b : Bool) : ShiftTarget := if b then .display else .cursor

/-- R62: `DIR` = 1 is RIGHT. -/
def ShiftDir.ofBit (b : Bool) : ShiftDir := if b then .right else .left

def RegSel.bit : RegSel → Bool
  | .cmd => false
  | .data => true

def ShiftTarget.bit : ShiftTarget → Bool
  | .cursor => false
  | .display => true

def ShiftDir.bit : ShiftDir → Bool
  | .left => false
  | .right => true

/-- `REQ.OP`, word bits 15:12 (R17, R57). -/
def reqOp (w : ReqWord) : BitVec 4 := w.extractLsb' 12 4

/-- `REQ.RSV`, word bits 11:9 (R17, R57). -/
def reqRsv (w : ReqWord) : BitVec 3 := w.extractLsb' 9 3

/-- `REQ.RS`, word bit 8 (R17, R57). -/
def reqRs (w : ReqWord) : Bool := w.getLsbD 8

/-- `REQ.OPD`, word bits 7:0 (R17, R57). -/
def reqOpd (w : ReqWord) : Byte := w.extractLsb' 0 8

/-- R66's reserved masks; no mask for a reserved opcode (R67). -/
def rsvMask (op : BitVec 4) : Option ReqWord :=
  match op.toNat with
  | 0x1 => some 0x0EF0#16
  | 0x2 => some 0x0E00#16
  | 0x3 => some 0x0FFF#16
  | 0x4 => some 0x0FFF#16
  | 0x5 => some 0x0FFF#16
  | 0x6 => some 0x0FFC#16
  | 0x7 => some 0x0F00#16
  | 0x8 => some 0x0FFE#16
  | 0x9 => some 0x0FFF#16
  | _ => none

/-- The opcode map of R58 with the operand fields of R59 to R65. -/
def legalRequest (op : BitVec 4) (rs : Bool) (opd : Byte) : Option Instr :=
  match op.toNat with
  | 0x1 => some (.writeNibble (RegSel.ofBit rs) (opd.extractLsb' 0 4))
  | 0x2 => some (.writeByte (RegSel.ofBit rs) opd)
  | 0x3 => some .init
  | 0x4 => some .clearScreen
  | 0x5 => some .cursorReturn
  | 0x6 => some (.shift (ShiftTarget.ofBit (opd.getLsbD 1)) (ShiftDir.ofBit (opd.getLsbD 0)))
  | 0x7 => some (.setCursorRow opd)
  | 0x8 => some (.setBacklight (opd.getLsbD 0))
  | 0x9 => some .detach
  | _ => none

/-- R69: first the opcode, then the reserved bits, then the fields. -/
def decodeRequest (w : ReqWord) : Except Reject Instr :=
  match rsvMask (reqOp w) with
  | none => .error .reservedOpcode
  | some mask =>
    if w &&& mask ≠ 0#16 then .error .reservedField
    else
      match legalRequest (reqOp w) (reqRs w) (reqOpd w) with
      | some i => .ok i
      | none => .error .reservedOpcode

/-- A code whose command takes no payload (R71). -/
def withoutPayload (i : Instr) (payload : List Byte) : Except Reject Instr :=
  if payload = [] then .ok i else .error .malformedPayload

/-- R72's SHIFT payload: one byte, bit 1 target, bit 0 direction, bits 7:2 zero. -/
def shiftPayload (payload : List Byte) : Except Reject Instr :=
  match payload with
  | [b] =>
    if b &&& 0xFC#8 ≠ 0#8 then .error .malformedPayload
    else .ok (.hostShift (ShiftTarget.ofBit (b.getLsbD 1)) (ShiftDir.ofBit (b.getLsbD 0)))
  | _ => .error .malformedPayload

/-- R72: a host code and its payload. A payload of the wrong shape is refused at this boundary (R135); an
unassigned code is the unrecognized command (R134). -/
def decodeCommand (m : HostCodeMap) (hc : Byte) (payload : List Byte) : Except Reject Instr :=
  if hc = m.writeValue then .ok (.writeValue payload)
  else if hc = m.readValue then withoutPayload .readValue payload
  else if hc = m.clearScreen then withoutPayload .hostClearScreen payload
  else if hc = m.backlightOn then withoutPayload .backlightOn payload
  else if hc = m.backlightOff then withoutPayload .backlightOff payload
  else if hc = m.shift then shiftPayload payload
  else if hc = m.cursorReturn then withoutPayload .hostCursorReturn payload
  else .ok (.hostUnrecognized hc payload)

/-- Decoding whatever is presented. -/
def decode (m : HostCodeMap) : Code → Except Reject Instr
  | .request w => decodeRequest w
  | .command hc payload => decodeCommand m hc payload

/-- `b` as a 1-bit field. -/
def bit1 (b : Bool) : BitVec 1 := BitVec.ofBool b

/-- The request word of R57 and R76, field by field from bit 15 down. A host command has no request word; 0 (a
reserved-opcode word, R67) stands there and nothing reads it. -/
def requestWord : Instr → ReqWord
  | .writeNibble rs nib => 0x1#4 ++ 0#3 ++ bit1 rs.bit ++ 0#4 ++ nib
  | .writeByte rs byte => 0x2#4 ++ 0#3 ++ bit1 rs.bit ++ byte
  | .init => 0x3000#16
  | .clearScreen => 0x4000#16
  | .cursorReturn => 0x5000#16
  | .shift tgt dir => 0x6#4 ++ 0#3 ++ 0#1 ++ 0#6 ++ bit1 tgt.bit ++ bit1 dir.bit
  | .setCursorRow row => 0x7#4 ++ 0#3 ++ 0#1 ++ row
  | .setBacklight on => 0x8#4 ++ 0#3 ++ 0#1 ++ 0#7 ++ bit1 on
  | .detach => 0x9000#16
  | .writeValue _ | .readValue | .hostClearScreen | .backlightOn | .backlightOff | .hostShift _ _
  | .hostCursorReturn | .hostUnrecognized _ _ => 0#16

/-- The encoder: a request's word, or a host command's code and payload (R72). -/
def encode (m : HostCodeMap) : Instr → Code
  | .writeNibble rs nib => .request (requestWord (.writeNibble rs nib))
  | .writeByte rs byte => .request (requestWord (.writeByte rs byte))
  | .init => .request (requestWord .init)
  | .clearScreen => .request (requestWord .clearScreen)
  | .cursorReturn => .request (requestWord .cursorReturn)
  | .shift tgt dir => .request (requestWord (.shift tgt dir))
  | .setCursorRow row => .request (requestWord (.setCursorRow row))
  | .setBacklight on => .request (requestWord (.setBacklight on))
  | .detach => .request (requestWord .detach)
  | .writeValue bytes => .command m.writeValue bytes
  | .readValue => .command m.readValue []
  | .hostClearScreen => .command m.clearScreen []
  | .backlightOn => .command m.backlightOn []
  | .backlightOff => .command m.backlightOff []
  | .hostShift tgt dir => .command m.shift [0#6 ++ bit1 tgt.bit ++ bit1 dir.bit]
  | .hostCursorReturn => .command m.cursorReturn []
  | .hostUnrecognized code payload => .command code payload

/-- The payload of zeros that goes with a host code of the opcode table: SHIFT has one payload byte, every other
command none (R72; WRITE_VALUE takes any number of bytes, here none). -/
def zeroPayload (m : HostCodeMap) (hc : Byte) : List Byte := if hc = m.shift then [0#8] else []

/-- What the opcode table's `nbits` bits `w` present: a row of up to 8 bits is a host code (format `host_command`),
a longer one a request word (format `REQ16`). -/
def codeOfTableWord (m : HostCodeMap) (nbits w : Nat) : Code :=
  if nbits ≤ 8 then .command (BitVec.ofNat 8 w) (zeroPayload m (BitVec.ofNat 8 w))
  else .request (BitVec.ofNat 16 w)

/-- The instruction the decoder reads from the opcode table's bits, under the table's host codes (R72). -/
def decodeTableWord (nbits w : Nat) : Option Instr :=
  match decode HostCodeMap.placeholder (codeOfTableWord HostCodeMap.placeholder nbits w) with
  | .ok i => some i
  | .error _ => none

end Sys2Proof
end

