-- ==== Sys2Proof/Machine/State.lean ====
section
/-! DEFINITION. The state of the machine: the Engine's registers (10_state.md R15 to R30), its observable output
(R30, R78), the host layer's device instance (43_host_layer.md R116), the ports with what is pending on them (R28,
R29), and what the outside world will do next. Plain data throughout. -/

namespace Sys2Proof.Machine

/-- The eight output lines (R26). -/
inductive Line
  | rs
  | rw
  | en
  | bl
  | d4
  | d5
  | d6
  | d7
  deriving DecidableEq, Repr

/-- `LSTATE` (R20). The value 3 is never written, so it has no constructor. -/
inductive LState
  | off
  | uninit
  | ready
  deriving DecidableEq, Repr

/-- The cause codes of R145, `noError` for code 0. Codes 8 to 15 are never written, so they have no constructor. -/
inductive Cause
  | noError
  | reservedOpcode
  | reservedField
  | notReady
  | initState
  | acquireFail
  | alreadyAttached
  | rowRange
  deriving DecidableEq, Repr

/-- The host layer's diagnostics (R136). -/
inductive HostDiag
  | bufferFull
  | unrecognizedCommand
  deriving DecidableEq, Repr

/-- One event of the `DIAG` stream, with its origin (R30). -/
inductive DiagEvent
  | engine (cause : Cause)
  | host (d : HostDiag)
  deriving DecidableEq, Repr

/-- One event of the pin trace (R78); `wait` carries its minimum in microseconds. -/
inductive PinEvent
  | set (l : Line) (v : Bool)
  | wait (micros : Nat)
  | acquire (levels : Byte)
  | release
  deriving DecidableEq, Repr

/-- The bytes of `BUF` as (index, byte) pairs: strictly rising indices, no byte 0x00, which is what an unlisted
index reads as (R117: a new instance's `BUF` is all 0x00). `Memory.wf` states the form. -/
abbrev Memory := List Host.Cell

/-- The device instance of the host layer (R116), at the widths R116 gives. -/
structure DevInst where
  buf : Memory
  len : BitVec 6
  row : BitVec 6
  col : BitVec 5
  deriving DecidableEq, Repr

/-- A new instance (R117). -/
def DevInst.fresh : DevInst where
  buf := []
  len := 0#6
  row := 0#6
  col := 0#5

/-- What READ_VALUE hands to its caller: the length and the bytes (R128). -/
structure Reply where
  len : BitVec 6
  bytes : List Byte
  deriving DecidableEq, Repr

/-- What the outside world does, in order. `acq`: the collaborator delivers ACQ with its bit `ok` (R29).
`present`: the host puts a word on the request port and goes on (R28). `call`: the host presents a request and
blocks until it completes (`Request(w)`, R119), or dispatches a host command (R71). `attach`: the attach procedure
(R114, R137). `wait`: the host waits at least so many microseconds. -/
inductive Input
  | acq (ok : Bool)
  | present (w : ReqWord)
  | call (c : Code)
  | attach (ok : Bool)
  | wait (micros : Nat)
  deriving DecidableEq, Repr

/-- The machine. `STATUS` (R22), `OE` (R27), `REQ_READY` (R28) and the latch trace (R86) are read from it by the
functions of `Machine/Flags.lean` and `Machine/Trace.lean`. -/
structure State where
  /-- The parameters of R8; no step writes them. -/
  cfg : Config
  /-- `REQ`, the request latch (R17). -/
  req : ReqWord
  /-- `seq_pc`, the sequencer step counter (R18). -/
  seqPc : BitVec 8
  /-- `DLY`, the delay counter, in ticks (R19); not 0 exactly while a `Wait` runs. -/
  dly : Nat
  /-- `LSTATE` (R20). -/
  lstate : LState
  /-- `BUSY` (R21). -/
  busy : Bool
  /-- `STATUS.ERR` (R23). -/
  err : Cause
  /-- `STATUS.STICKY` (R24). -/
  sticky : Bool
  /-- `LINES` (R26). -/
  lines : Byte
  /-- The pin trace, oldest first (R78). -/
  trace : List PinEvent
  /-- The `DIAG` stream, oldest first (R30). -/
  diag : List DiagEvent
  /-- `REQ_VALID` (R28). -/
  reqValid : Bool
  /-- `REQ_WORD` (R28). -/
  reqWord : ReqWord
  /-- A pending ACQ event and its bit `ok` (R29). -/
  acq : Option Bool
  /-- The device instance; `INST` (R116) is 1 exactly when there is one. -/
  host : Option DevInst
  /-- What READ_VALUE has returned so far, oldest first (R128). -/
  replies : List Reply
  /-- Ticks the host still waits before its next call (R114, R115); the model's own. -/
  hostWait : Nat
  /-- What the outside world will do, in order; the model's own. -/
  inputs : List Input
  deriving DecidableEq, Repr

/-- Why the machine stops. -/
inductive Fault
  /-- Raised by `memRead` and `memWrite`: an index of `BUF` outside 0 to 31 (R49, 93_implementation_defined.md I28:
  treatment `fault`). Safe: no rule reaches it, and the machine stops. -/
  | bufIndex
  /-- Raised by `hostRead`: a read of `BUF`, `LEN`, `ROW` or `COL` with no instance (R117, I9: treatment `fault`).
  Safe: the spec gives these fields no value there. -/
  | noField
  deriving DecidableEq, Repr

/-- Why an instruction has no meaning. -/
inductive Refusal
  /-- Raised by an arm of `exec` for an instruction that has no meaning yet; no arm does. Safe. -/
  | notModelled (mnemonic : String)
  /-- Raised by every host command when `INST` = 0 (R143: "a model refuses it"). Safe: the machine stops. -/
  | noInstance
  /-- Raised by the fetch of a host command whose payload has the wrong shape (R135: a model "refuses the rest at
  its boundary"). Safe: the transport turns such a payload away before the host layer sees it. -/
  | malformedPayload
  deriving DecidableEq, Repr

/-- Power-on (R34): every element as R34 states it; no device instance (R35), nothing pending on the ports. -/
def State.reset : State where
  cfg := .default
  req := 0x0000#16
  seqPc := 0#8
  dly := 0
  lstate := .off
  busy := false
  err := .noError
  sticky := false
  lines := 0x00#8
  trace := []
  diag := []
  reqValid := false
  reqWord := 0x0000#16
  acq := none
  host := none
  replies := []
  hostWait := 0
  inputs := []

end Sys2Proof.Machine
end

