-- ==== Sys2Proof/Machine/Operands.lean ====
section
/-! DEFINITION. Line positions, nibble split, command bytes and delays: every operand form and constant the
micro-programs use (10_state.md R26, 20_memory.md R39 and R40, 30_encoding.md R62 and R73, 00_scope.md R8). -/

namespace Sys2Proof.Machine

/-- A line's bit in `LINES` (R26). -/
def Line.bit : Line → Nat
  | .rs => 0
  | .rw => 1
  | .en => 2
  | .bl => 3
  | .d4 => 4
  | .d5 => 5
  | .d6 => 6
  | .d7 => 7

/-- `x` with bit `i` set to `v`. -/
def setBit (x : Byte) (i : Nat) (v : Bool) : Byte :=
  if v then x ||| (1#8 <<< i) else x &&& ~~~(1#8 <<< i)

/-- The level a line has in a `LINES` value. -/
def level (levels : Byte) (l : Line) : Bool := levels.getLsbD l.bit

/-- R39: `b[7:4]`, sent first. -/
def highNibble (b : Byte) : Nibble := b.extractLsb' 4 4

/-- R39: `b[3:0]`, sent second. -/
def lowNibble (b : Byte) : Nibble := b.extractLsb' 0 4

/-- R62: `CB = 0x10 | (TGT << 3) | (DIR << 2)`. -/
def shiftByte (tgt : ShiftTarget) (dir : ShiftDir) : Byte :=
  0x10#8 ||| ((bit1 tgt.bit).setWidth 8 <<< 3) ||| ((bit1 dir.bit).setWidth 8 <<< 2)

/-- R98: 0x80 for row 0, else 0xC0; rows of 2 or more are rejected before it is used (R99). -/
def rowByte (row : Byte) : Byte := if row = 0#8 then 0x80#8 else 0xC0#8

/-- `NEWLINE` (R8, R123). -/
def newline : Byte := 0x0A#8

/-- `T_EN_HIGH`, microseconds (R8). -/
def tEnHigh : Nat := 1

/-- `T_LATCH`, microseconds (R8). -/
def tLatch : Nat := 50

/-- `T_INIT1`, microseconds (R8). -/
def tInit1 : Nat := 5000

/-- `T_INIT2`, microseconds (R8). -/
def tInit2 : Nat := 200

/-- `T_INIT3`, microseconds (R8). -/
def tInit3 : Nat := 200

/-- `T_SETTLE`, microseconds (R8). -/
def tSettle : Nat := 2000

/-- `ceil(t / T_TICK)` for `t` in microseconds (R80): `T_TICK` is `tickNum / tickDen` microseconds. -/
def ticksFor (c : Config) (micros : Nat) : Nat := (micros * c.tickDen + (c.tickNum - 1)) / c.tickNum

end Sys2Proof.Machine
end

