-- ==== Sys2Proof/Machine/Flags.lean ====
section
/-! DEFINITION. `STATUS` and its fields, the flags `BUSY` and `STICKY`, `OE` and the host-visible ports
(10_state.md R20 to R31). The Engine has no condition codes (R31). -/

namespace Sys2Proof.Machine

/-- The value `LSTATE` has in `STATUS` (R20). -/
def LState.code : LState → BitVec 2
  | .off => 0#2
  | .uninit => 1#2
  | .ready => 2#2

/-- The cause codes of R145. -/
def Cause.code : Cause → BitVec 4
  | .noError => 0#4
  | .reservedOpcode => 1#4
  | .reservedField => 2#4
  | .notReady => 3#4
  | .initState => 4#4
  | .acquireFail => 5#4
  | .alreadyAttached => 6#4
  | .rowRange => 7#4

/-- The host diagnostics' codes (R136). -/
def HostDiag.code : HostDiag → Nat
  | .bufferFull => 1
  | .unrecognizedCommand => 2

/-- `STATUS = {8'b0, ERR[3:0], STICKY, LSTATE[1:0], BUSY}` (R22). A read, with no side effect (R25). -/
def State.status (s : State) : BitVec 16 :=
  0#8 ++ s.err.code ++ bit1 s.sticky ++ s.lstate.code ++ bit1 s.busy

/-- `OE` (R27): 1 exactly when `LSTATE` is not OFF. -/
def State.oe (s : State) : Bool := s.lstate != .off

/-- What the Engine drives on the eight physical lines, `none` while it drives nothing (R27). -/
def State.pins (s : State) : Option Byte := if s.oe then some s.lines else none

/-- `REQ_READY` (R28). -/
def State.reqReady (s : State) : Bool := !s.busy

/-- `INST` (R116). -/
def State.inst (s : State) : Bool := s.host.isSome

/-- The cause an undecodable request word raises (R145 codes 1 and 2). A request word has no payload, so the third
reject never comes from one. -/
def Reject.cause : Reject → Cause
  | .reservedOpcode => .reservedOpcode
  | .reservedField => .reservedField
  | .malformedPayload => .reservedField

end Sys2Proof.Machine
end

