-- ==== Sys2Proof/Machine/Ops.lean ====
section
/-! DEFINITION. The shared operations: the Line Driver's micro-operations (40_line_driver.md), acceptance of a
request (10_state.md R28), its completion (R18, 41_protocol_engine.md R88), and the error completion, which is the
whole of the Engine's reaction to an error (60_exceptions.md R146, R151: there is no trap to take and none to return
from). -/

namespace Sys2Proof.Machine

/-- A micro-operation (R14): `SetLine(l, v)` or `Wait(t)` with `t` in microseconds. -/
inductive MicroOp
  | setLine (l : Line) (v : Bool)
  | wait (micros : Nat)
  deriving DecidableEq, Repr

/-- `seq_pc <- seq_pc + 1` (R18). -/
def advance (s : State) : State := { s with seqPc := s.seqPc + 1#8 }

/-- `SetLine(l, v)` (R79): the level, the event, nothing else. -/
def setLine (l : Line) (v : Bool) (s : State) : State :=
  { s with lines := setBit s.lines l.bit v, trace := s.trace ++ [.set l v] }

/-- The start of `Wait(t)` (R80): `DLY` is loaded. -/
def beginWait (micros : Nat) (s : State) : State := { s with dly := ticksFor s.cfg micros }

/-- The end of a `Wait` (R19, R80): `DLY` has reached 0, the events of it are appended and the step counter moves on.
`es` is the one event `Wait(t)` of the micro-operation that ends. -/
def endWait (es : List PinEvent) (s : State) : State := advance { s with dly := 0, trace := s.trace ++ es }

/-- A micro-operation from its start to its completion (R18). -/
def perform (op : MicroOp) (s : State) : State :=
  match op with
  | .setLine l v => advance (setLine l v s)
  | .wait t => endWait [.wait t] (beginWait t s)

/-- A list of micro-operations in order, each to completion (R12, R50). -/
def runOps : List MicroOp → State → State
  | [], s => s
  | op :: ops, s => runOps ops (perform op s)

/-- `Emit(DIAG, …)` (R11, R30). -/
def emit (e : DiagEvent) (s : State) : State := { s with diag := s.diag ++ [e] }

/-- The error completion `raise Error(code)` (R146): no line changes, `ERR`, `STICKY`, one event, `BUSY` 0. -/
def raiseError (c : Cause) (s : State) : State :=
  emit (.engine c) { s with err := c, sticky := true, busy := false }

/-- Acceptance of a request word (R28): `REQ`, `BUSY`, `seq_pc`. `DLY`, irrelevant while no `Wait` runs (R19), is
cleared. -/
def accept (w : ReqWord) (s : State) : State := { s with req := w, busy := true, seqPc := 0#8, dly := 0 }

/-- Completion without error (R18, R23, R88): `BUSY` and `ERR` 0. -/
def endRequest (s : State) : State := { s with busy := false, err := .noError }

end Sys2Proof.Machine
end

