-- ==== Sys2Proof/Machine/Program.lean ====
section
/-! DEFINITION. The micro-programs (40_line_driver.md R81, 41_protocol_engine.md R89 to R100, 42_init_sequencer.md
R102 and R113), the checks a request passes before its first micro-operation (60_exceptions.md R148), and what its
completion does beside clearing `BUSY` and `ERR`. -/

namespace Sys2Proof.Machine

/-- `Strobe()` (R81). -/
def strobeOps : List MicroOp :=
  [.setLine .en true, .wait tEnHigh, .setLine .en false, .wait tLatch]

/-- `Nibble(v, rs)` (R89); bit i of the nibble drives D(4+i) (R40). -/
def nibbleOps (v : Nibble) (rs : Bool) : List MicroOp :=
  [.setLine .rs rs, .setLine .d4 (v.getLsbD 0), .setLine .d5 (v.getLsbD 1), .setLine .d6 (v.getLsbD 2),
    .setLine .d7 (v.getLsbD 3)] ++ strobeOps

/-- `Byte(b, rs)` (R90), high nibble first (R39). -/
def byteOps (b : Byte) (rs : Bool) : List MicroOp := nibbleOps (highNibble b) rs ++ nibbleOps (lowNibble b) rs

/-- `Command(cb)` (R91). -/
def commandOps (cb : Byte) : List MicroOp := byteOps cb false

/-- `SettledCommand(cb)` (R91). -/
def settledCommandOps (cb : Byte) : List MicroOp := commandOps cb ++ [.wait tSettle]

/-- The micro-program of INIT (R102); byte 0x0C is sent when `INIT_EMIT_0C` says so (R106). -/
def initOps (emit0C : Bool) : List MicroOp :=
  nibbleOps 0x3#4 false ++ [.wait tInit1]
    ++ (nibbleOps 0x3#4 false ++ [.wait tInit2])
    ++ (nibbleOps 0x3#4 false ++ [.wait tInit3])
    ++ nibbleOps 0x2#4 false
    ++ commandOps 0x28#8
    ++ commandOps 0x08#8
    ++ settledCommandOps 0x01#8
    ++ commandOps 0x06#8
    ++ (if emit0C then commandOps 0x0C#8 else [])
    ++ commandOps 0x0F#8

/-- The micro-program of DETACH (R113); the release is part of its completion. -/
def detachOps : List MicroOp := .setLine .bl false :: settledCommandOps 0x01#8

/-- The micro-program of each request. A host command has none: it issues requests (R77). -/
def microProgram (c : Config) : Instr → List MicroOp
  | .writeNibble rs nib => nibbleOps nib rs.bit
  | .writeByte rs byte => byteOps byte rs.bit
  | .init => initOps c.initEmit0C
  | .clearScreen => settledCommandOps 0x01#8
  | .cursorReturn => settledCommandOps 0x02#8
  | .shift tgt dir => settledCommandOps (shiftByte tgt dir)
  | .setCursorRow row => commandOps (rowByte row)
  | .setBacklight on => [.setLine .bl on]
  | .detach => detachOps
  | .writeValue _ | .readValue | .hostClearScreen | .backlightOn | .backlightOff | .hostShift _ _
  | .hostCursorReturn | .hostUnrecognized _ _ => []

/-- The precondition `LSTATE = READY` (R88, R113). -/
def needsReady (l : LState) : Option Cause := if l = .ready then none else some .notReady

/-- The checks of R148 that come after decoding: lifecycle state, then row range. -/
def failedCheck (l : LState) : Instr → Option Cause
  | .init => if l = .uninit then none else some .initState
  | .setCursorRow row =>
    match needsReady l with
    | some c => some c
    | none => if row.toNat < 2 then none else some .rowRange
  | .writeNibble _ _ | .writeByte _ _ | .clearScreen | .cursorReturn | .shift _ _ | .setBacklight _
  | .detach => needsReady l
  | .writeValue _ | .readValue | .hostClearScreen | .backlightOn | .backlightOff | .hostShift _ _
  | .hostCursorReturn | .hostUnrecognized _ _ => none

/-- The end of INIT's micro-program (R102): `LSTATE <- READY`. -/
def becomeReady (s : State) : State := { s with lstate := .ready }

/-- The end of DETACH's micro-program (R113): `LSTATE <- OFF`, `Release`, and the host layer's instance is
destroyed (R138). -/
def releaseLines (s : State) : State := { s with lstate := .off, trace := s.trace ++ [.release], host := none }

/-- What a request does at the end of its micro-program beside R88's completion. -/
def finalEffect (i : Instr) (s : State) : State :=
  match i with
  | .init => becomeReady s
  | .detach => releaseLines s
  | .writeNibble _ _ | .writeByte _ _ | .clearScreen | .cursorReturn | .shift _ _ | .setCursorRow _
  | .setBacklight _ | .writeValue _ | .readValue | .hostClearScreen | .backlightOn | .backlightOff
  | .hostShift _ _ | .hostCursorReturn | .hostUnrecognized _ _ => s

/-- Completion of a request that ran (R18, R88). -/
def complete (i : Instr) (s : State) : State := endRequest (finalEffect i s)

end Sys2Proof.Machine
end

