-- ==== Sys2Proof/Machine/Engine.lean ====
section
/-! DEFINITION. The Engine sequencer (10_state.md R15, R18, R28): one tick of a running request, the rest of a
running request, a request from acceptance to completion, and acceptance at the port. -/

namespace Sys2Proof.Machine

/-- The request in `REQ`, once decoded. -/
def running (s : State) : Option Instr :=
  match decodeRequest s.req with
  | .ok i => some i
  | .error _ => none

/-- The micro-program of the request in `REQ` (R18: a rejected request has length 0). -/
def currentProgram (s : State) : List MicroOp :=
  match running s with
  | some i => microProgram s.cfg i
  | none => []

/-- Completion of the request in `REQ`. -/
def completeCurrent (s : State) : State :=
  match running s with
  | some i => complete i s
  | none => endRequest s

/-- The event of the `Wait` that runs, the micro-operation at `seq_pc` (R18, R80). There is none where `seq_pc` is at no
`Wait`; no run has `DLY` other than 0 there (notes/assumptions/19.md). -/
def waitEvents (s : State) : List PinEvent :=
  match (currentProgram s)[s.seqPc.toNat]? with
  | some (.wait t) => [.wait t]
  | some (.setLine _ _) | none => []

/-- One tick of a `Wait` that runs (R19, R80): `DLY` counts down, and at 0 the `Wait` completes. -/
def waitTick (s : State) : State := if s.dly ≤ 1 then endWait (waitEvents s) s else { s with dly := s.dly - 1 }

/-- The first tick of a `Wait`: it loads `DLY`. (A wait of 0 ticks would complete at once; R80: there is none.) -/
def startWait (micros : Nat) (s : State) : State :=
  let s' := beginWait micros s
  if s'.dly = 0 then endWait [.wait micros] s' else s'

/-- One tick of the sequencer while `BUSY` = 1: a tick of the running `Wait`, or the micro-operation at `seq_pc`,
or completion when `seq_pc` has reached the micro-program's length (R18). -/
def engineTick (s : State) : State :=
  if s.dly ≠ 0 then waitTick s
  else
    match (currentProgram s)[s.seqPc.toNat]? with
    | some (.setLine l v) => advance (setLine l v s)
    | some (.wait t) => startWait t s
    | none => completeCurrent s

/-- The rest of the running request, to its completion (R21: it "runs to completion"); nothing when `BUSY` = 0. -/
def drain (s : State) : State :=
  if s.busy then
    let s' := if s.dly ≠ 0 then endWait (waitEvents s) s else s
    completeCurrent (runOps ((currentProgram s').drop s'.seqPc.toNat) s')
  else s

/-- A request on an idle Engine, from acceptance to completion: accepted and checked (R28, R148), then rejected
with no line changed (R146) or run to its end (R88). The word goes into `REQ` at once: that the host's presentation of
it (R119) does not pass through `REQ_VALID` and `REQ_WORD`, which keep their values, is a DESIGN CHOICE
(notes/assumptions/23.md). -/
def serveIdle (i : Instr) (s : State) : State :=
  let s' := accept (requestWord i) s
  match failedCheck s.lstate i with
  | some c => raiseError c s'
  | none => complete i (runOps (microProgram s.cfg i) s')

/-- `Request(w)` for the word of request `i` (R119): it waits while `BUSY` = 1 (R28), then runs to completion. -/
def serve (i : Instr) (s : State) : State := serveIdle i (drain s)

/-- `Request(w)` for a word that decodes to no request: accepted and rejected at once (R67, R66, R146); `REQ_VALID` and
`REQ_WORD` as with `serveIdle` (notes/assumptions/23.md). -/
def rejectWord (w : ReqWord) (r : Reject) (s : State) : State := raiseError (Reject.cause r) (accept w (drain s))

/-- Acceptance at the port (R28): the presented word is latched, decoded and checked, and withdrawn from the port
(`REQ_VALID` falls and `REQ_WORD` keeps the word: DESIGN CHOICE, notes/assumptions/5.md); a request that fails a check
completes at once (R144), any other starts its micro-program. -/
def acceptPort (s : State) : State :=
  let s' := accept s.reqWord { s with reqValid := false }
  match decodeRequest s.reqWord with
  | .error r => raiseError (Reject.cause r) s'
  | .ok i =>
    match failedCheck s.lstate i with
    | some c => raiseError c s'
    | none => s'

end Sys2Proof.Machine
end

