-- ==== Sys2Proof/Machine/Memory.lean ====
section
/-! DEFINITION. The host buffer `BUF` (20_memory.md R37, R49): 32 bytes, indices 0 to 31, kept in one canonical
form. -/

namespace Sys2Proof.Machine

/-- `CAPACITY` = `ROWS` x `COLS` = 2 x 16 (R8). -/
def capacity : Nat := 32

/-- What an unlisted index reads as (R117: "every byte of `BUF` <- 0x00"). -/
def unlisted : Byte := 0x00#8

/-- The canonical form: strictly rising indices inside the buffer, no byte equal to `unlisted`. -/
abbrev Memory.wf (m : Memory) : Prop :=
  m.Pairwise (fun a b => a.1 < b.1) ∧ ∀ c ∈ m, c.2 ≠ unlisted ∧ c.1 < capacity

/-- The byte at an index, listed or not. -/
def readCell : Memory → Nat → Byte
  | [], _ => unlisted
  | c :: m, i => if c.1 = i then c.2 else readCell m i

/-- A cell in front of a memory, unless it is what an unlisted index reads as. -/
def consCell (i : Nat) (b : Byte) (m : Memory) : Memory := if b = unlisted then m else (i, b) :: m

/-- The memory with index `i` set to `b`, in canonical form again. -/
def writeCell : Memory → Nat → Byte → Memory
  | [], i, b => consCell i b []
  | c :: m, i, b =>
    if i < c.1 then consCell i b (c :: m)
    else if i = c.1 then consCell i b m
    else c :: writeCell m i b

/-- `MemRead(BUF, i)` (R49). -/
def memRead (m : Memory) (i : Nat) : Except Fault Byte :=
  if i < capacity then .ok (readCell m i) else .error .bufIndex

/-- `MemWrite(BUF, i, b)` (R49). -/
def memWrite (m : Memory) (i : Nat) (b : Byte) : Except Fault Memory :=
  if i < capacity then .ok (writeCell m i b) else .error .bufIndex

/-- `n` bytes from index `i` on, in index order (R128). -/
def memReadFrom (m : Memory) : Nat → Nat → Except Fault (List Byte)
  | _, 0 => .ok []
  | i, n + 1 =>
    match memRead m i with
    | .error f => .error f
    | .ok b =>
      match memReadFrom m (i + 1) n with
      | .error f => .error f
      | .ok bs => .ok (b :: bs)

end Sys2Proof.Machine
end

