-- ==== Sys2Proof/Machine/HostLayer.lean ====
section
/-! DEFINITION. The host layer: display buffer, cursor row and command dispatch (43_host_layer.md R116 to R143). -/

namespace Sys2Proof.Machine

/-- A field of the device instance; with `INST` = 0 there is none, and reading it is a fault (R117). -/
def hostRead {α : Type} (f : DevInst → α) (s : State) : Except Fault α :=
  match s.host with
  | some h => .ok (f h)
  | none => .error .noField

/-- The frame of every host command (R141, R143): it starts when the Engine is idle, and with no instance it is
refused. -/
def dispatch (k : DevInst → State → Host.Outcome State Fault Refusal) (s : State) :
    Host.Outcome State Fault Refusal :=
  match (drain s).host with
  | some h => k h (drain s)
  | none => .refused .noInstance

/-- `MemWrite(BUF, LEN, b); LEN <- LEN + 1` (R121). -/
def appendByte (b : Byte) (h : DevInst) : Except Fault DevInst :=
  match memWrite h.buf h.len.toNat b with
  | .ok buf => .ok { h with buf := buf, len := h.len + 1#6 }
  | .error f => .error f

/-- The instance put back into the state. -/
def withInst (h : DevInst) (s : State) : State := { s with host := some h }

/-- `SetRow(r)` (R120), under `ROW_OVERFLOW_POLICY`. -/
def setRow (r : BitVec 6) (s : State) : State :=
  if r = 0#6 ∨ r = 1#6 then serve (.setCursorRow (r.setWidth 8)) s
  else
    match s.cfg.rowOverflow with
    | .clamp => serve (.setCursorRow 1#8) s
    | .reject => s

/-- The soft-wrap test of R124: row 0, and the 17th byte of it about to be written. -/
def softWraps (h : DevInst) : Bool := h.row = 0#6 ∧ 15 < h.len.toNat

/-- `ROW <- ROW + 1`. -/
def nextRow (h : DevInst) : DevInst := { h with row := h.row + 1#6 }

/-- The write path of R121, byte by byte: full (R122), newline (R123), soft wrap (R124), store and render
(R125). -/
def writeLoop : List Byte → DevInst → State → Host.Outcome State Fault Refusal
  | [], h, s => .next (withInst h s)
  | b :: bs, h, s =>
    if h.len = 32#6 then .next (emit (.host .bufferFull) (withInst h s))
    else if b = newline then
      match appendByte b (nextRow h) with
      | .error f => .fault f
      | .ok h' => writeLoop bs h' (setRow h'.row (withInst h' s))
    else if softWraps h then
      match appendByte b (nextRow h) with
      | .error f => .fault f
      | .ok h' =>
        writeLoop bs h' (serve (.writeByte .data b) (withInst h' (setRow h'.row (withInst (nextRow h) s))))
    else
      match appendByte b h with
      | .error f => .fault f
      | .ok h' => writeLoop bs h' (serve (.writeByte .data b) (withInst h' s))

/-- WRITE_VALUE (R121). -/
def execWriteValue (bytes : List Byte) (s : State) : Host.Outcome State Fault Refusal :=
  dispatch (writeLoop bytes) s

/-- READ_VALUE (R128): the length and `BUF[0..LEN-1]` go to the caller. -/
def execReadValue (s : State) : Host.Outcome State Fault Refusal :=
  dispatch (fun h s' =>
    match memReadFrom h.buf 0 h.len.toNat with
    | .ok bytes => .next { s' with replies := s'.replies ++ [⟨h.len, bytes⟩] }
    | .error f => .fault f) s

/-- CLEAR_SCREEN of the host layer (R129): the state reset first, then the request. -/
def execHostClearScreen (s : State) : Host.Outcome State Fault Refusal :=
  dispatch (fun _ s' => .next (serve .clearScreen (withInst ⟨[], 0#6, 0#6, 0#5⟩ s'))) s

/-- BACKLIGHT_ON (R130). -/
def execBacklightOn (s : State) : Host.Outcome State Fault Refusal :=
  dispatch (fun _ s' => .next (serve (.setBacklight true) s')) s

/-- BACKLIGHT_OFF (R131). -/
def execBacklightOff (s : State) : Host.Outcome State Fault Refusal :=
  dispatch (fun _ s' => .next (serve (.setBacklight false) s')) s

/-- SHIFT of the host layer (R132). -/
def execHostShift (tgt : ShiftTarget) (dir : ShiftDir) (s : State) : Host.Outcome State Fault Refusal :=
  dispatch (fun _ s' => .next (serve (.shift tgt dir) s')) s

/-- CURSOR_RETURN of the host layer (R133). -/
def execHostCursorReturn (s : State) : Host.Outcome State Fault Refusal :=
  dispatch (fun _ s' => .next (serve .cursorReturn s')) s

/-- An unrecognized host code (R134): a diagnostic, no request, whatever its code and payload. -/
def execHostUnrecognized (_code : Byte) (_payload : List Byte) (s : State) : Host.Outcome State Fault Refusal :=
  dispatch (fun _ s' => .next (emit (.host .unrecognizedCommand) s')) s

end Sys2Proof.Machine
end

