-- ==== Sys2Proof/Machine/Lifecycle.lean ====
section
/-! DEFINITION. INIT, DETACH, the ACQ event and the attach procedure (42_init_sequencer.md). -/

namespace Sys2Proof.Machine

/-- INIT (R102, R104). -/
def execInit (s : State) : Host.Outcome State Fault Refusal := .next (serve .init s)

/-- DETACH (R113). -/
def execDetach (s : State) : Host.Outcome State Fault Refusal := .next (serve .detach s)

/-- The levels at a successful ACQ (R110): all 0 but BL, which is `BL_RESET_LEVEL`. -/
def acquiredLevels (c : Config) : Byte := setBit 0x00#8 Line.bl.bit c.blResetLevel

/-- A successful ACQ (R110): the lines are taken, `ERR` and `STICKY` are cleared and the host layer creates a fresh
instance (R117). -/
def acquire (s : State) : State :=
  { s with
    lines := acquiredLevels s.cfg
    lstate := .uninit
    err := .noError
    sticky := false
    busy := false
    trace := s.trace ++ [.acquire (acquiredLevels s.cfg)]
    host := some .fresh }

/-- The ACQ event with its bit `ok` (R110 to R112), the causes in R148's order. -/
def takeAcq (ok : Bool) (s : State) : State :=
  if s.lstate ≠ .off then raiseError .alreadyAttached s
  else if ok then acquire s
  else raiseError .acquireFail s

/-- The attach procedure (R114, R137): ACQ; if it made an instance, the host waits `T_POWERON` (R115) and then
issues INIT before anything else. -/
def attach (ok : Bool) (s : State) : State :=
  let s' := takeAcq ok s
  if s.lstate = .off ∧ ok = true then
    { s' with
      hostWait := ticksFor s.cfg s.cfg.powerOn
      inputs := .call (.request (requestWord .init)) :: s'.inputs }
  else s'

end Sys2Proof.Machine
end

