-- ==== Sys2Proof/Machine/Requests.lean ====
section
/-! DEFINITION. The requests of 41_protocol_engine.md, each a synchronous `Request(w)` (43_host_layer.md R119). -/

namespace Sys2Proof.Machine

/-- WRITE_NIBBLE (R92). -/
def execWriteNibble (rs : RegSel) (nib : Nibble) (s : State) : Host.Outcome State Fault Refusal :=
  .next (serve (.writeNibble rs nib) s)

/-- WRITE_BYTE (R93). -/
def execWriteByte (rs : RegSel) (byte : Byte) (s : State) : Host.Outcome State Fault Refusal :=
  .next (serve (.writeByte rs byte) s)

/-- CLEAR_SCREEN (R94). -/
def execClearScreen (s : State) : Host.Outcome State Fault Refusal := .next (serve .clearScreen s)

/-- CURSOR_RETURN (R95). -/
def execCursorReturn (s : State) : Host.Outcome State Fault Refusal := .next (serve .cursorReturn s)

/-- SHIFT (R96, R97). -/
def execShift (tgt : ShiftTarget) (dir : ShiftDir) (s : State) : Host.Outcome State Fault Refusal :=
  .next (serve (.shift tgt dir) s)

/-- SET_CURSOR_ROW (R98), rejected for a row of 2 or more (R99). -/
def execSetCursorRow (row : Byte) (s : State) : Host.Outcome State Fault Refusal :=
  .next (serve (.setCursorRow row) s)

/-- SET_BACKLIGHT (R100). -/
def execSetBacklight (on : Bool) (s : State) : Host.Outcome State Fault Refusal :=
  .next (serve (.setBacklight on) s)

end Sys2Proof.Machine
end

