-- ==== Sys2Proof/Machine/Dispatch.lean ====
section
/-! DEFINITION. One arm per constructor of Instr, each one direct call of its meaning. -/

namespace Sys2Proof.Machine

def exec (i : Instr) (s : State) : Host.Outcome State Fault Refusal :=
  match i with
  | .writeNibble rs nib => Sys2Proof.Machine.execWriteNibble rs nib s
  | .writeByte rs byte => Sys2Proof.Machine.execWriteByte rs byte s
  | .init => Sys2Proof.Machine.execInit s
  | .clearScreen => Sys2Proof.Machine.execClearScreen s
  | .cursorReturn => Sys2Proof.Machine.execCursorReturn s
  | .shift tgt dir => Sys2Proof.Machine.execShift tgt dir s
  | .setCursorRow row => Sys2Proof.Machine.execSetCursorRow row s
  | .setBacklight on => Sys2Proof.Machine.execSetBacklight on s
  | .detach => Sys2Proof.Machine.execDetach s
  | .writeValue bytes => Sys2Proof.Machine.execWriteValue bytes s
  | .readValue => Sys2Proof.Machine.execReadValue s
  | .hostClearScreen => Sys2Proof.Machine.execHostClearScreen s
  | .backlightOn => Sys2Proof.Machine.execBacklightOn s
  | .backlightOff => Sys2Proof.Machine.execBacklightOff s
  | .hostShift tgt dir => Sys2Proof.Machine.execHostShift tgt dir s
  | .hostCursorReturn => Sys2Proof.Machine.execHostCursorReturn s
  | .hostUnrecognized code payload => Sys2Proof.Machine.execHostUnrecognized code payload s

end Sys2Proof.Machine
end

