-- ==== Sys2Proof/Machine/Fetch.lean ====
section
/-! DEFINITION. Where the next instruction comes from: the ports, the host's calls, and what the outside world
delivers (10_state.md R28 and R29, 60_exceptions.md R149, 43_host_layer.md R119). -/

namespace Sys2Proof.Machine

/-- What the outside world delivers at this step whether or not the Engine is busy: an ACQ event, or a word on a
request port that holds none (R28: the port holds at most one). The host presents no word while it waits (R13, R114:
a wait is at least as long as its bound); ACQ comes from the collaborator, which does not wait for the host. -/
def deliver (s : State) : Option State :=
  match s.inputs with
  | .acq ok :: rest => if s.acq = none then some { s with acq := some ok, inputs := rest } else none
  | .present w :: rest =>
    if s.reqValid = false ∧ s.hostWait = 0 then some { s with reqValid := true, reqWord := w, inputs := rest }
    else none
  | .call _ :: _ | .attach _ :: _ | .wait _ :: _ | [] => none

/-- A call of the host: the code is decoded and the instruction runs (R69, R72). A word that is no request is
rejected by the Engine (R146); a malformed payload is refused at the host layer's boundary (R135). -/
def runCall (c : Code) (s : State) : Host.Outcome State Fault Refusal :=
  match decode s.cfg.hostCodes c with
  | .ok i => exec i s
  | .error r =>
    match c with
    | .request w => .next (rejectWord w r s)
    | .command _ _ => .refused .malformedPayload

/-- What the host does next, on an idle Engine with nothing pending on its ports; with nothing to do the machine is
idle and changes nothing (R159). `deliver` has taken an `acq` or a `present` before. -/
def runInput (s : State) : Host.Outcome State Fault Refusal :=
  match s.inputs with
  | .call c :: rest => runCall c { s with inputs := rest }
  | .attach ok :: rest => .next (attach ok { s with inputs := rest })
  | .wait t :: rest => .next { s with hostWait := ticksFor s.cfg t, inputs := rest }
  | .acq _ :: _ | .present _ :: _ | [] => .next s

/-- One step of the whole machine: a delivery; else a tick of the running request; else the pending ACQ event, which
goes before a request (R149); else the word on the port (R28), which no host that waits has put there (`deliver`);
else a tick of the host's own wait; else the host's next call. -/
def stepOnce (s : State) : Host.Outcome State Fault Refusal :=
  match deliver s with
  | some s' => .next s'
  | none =>
    if s.busy then .next (engineTick s)
    else
      match s.acq with
      | some ok => .next (takeAcq ok { s with acq := none })
      | none =>
        if s.reqValid then .next (acceptPort s)
        else if s.hostWait ≠ 0 then .next { s with hostWait := s.hostWait - 1 }
        else runInput s

/-- An attached, initialized device, which a host command needs (R137, R143, R162): the instance and `LSTATE` =
READY, where the state has no instance. -/
def attached (s : State) : State :=
  match s.host with
  | some _ => s
  | none => { s with host := some .fresh, lstate := .ready }

/-- The state with one call of the host next: at the head of the inputs, the Engine idle and nothing pending before
it. -/
def placeCall (c : Code) (s : State) : State :=
  { s with busy := false, acq := none, reqValid := false, hostWait := 0, inputs := .call c :: s.inputs }

/-- The state whose very next step runs the call `c`. -/
def placeCode (c : Code) (s : State) : State :=
  match c with
  | .request _ => placeCall c s
  | .command _ _ => placeCall c (attached s)

end Sys2Proof.Machine
end

