-- ==== Sys2Proof/Machine/Step.lean ====
section
/-! DEFINITION. One step, and where the host places the next instruction. -/

namespace Sys2Proof.Machine

/-- One step of the machine (`stepOnce`, Machine/Fetch.lean). -/
def step (s : State) : Host.Outcome State Fault Refusal := stepOnce s

/-- `s` with the opcode table's bits `w` as the next call of the host. A host command also needs an attached device
(notes/assumptions/4.md). -/
def State.withFetchWord (s : State) (nbits w : Nat) : State :=
  placeCode (codeOfTableWord s.cfg.hostCodes nbits w) s

end Sys2Proof.Machine
end

