-- ==== Sys2Proof/Machine/Trace.lean ====
section
/-! DEFINITION. What an observer reads from the pin trace (40_line_driver.md R78, R86) and the minimum durations
(41_protocol_engine.md R101, 70_reset_and_hazards.md R174). -/

namespace Sys2Proof.Machine

/-- A latch event `L(rs, n)` (R86). -/
structure Latch where
  rs : Bool
  n : Nibble
  deriving DecidableEq, Repr

/-- `{D7, D6, D5, D4}` of a `LINES` value (R86). -/
def dataNibble (levels : Byte) : Nibble := levels.extractLsb' 4 4

/-- What the controller latches under a `LINES` value (R86). -/
def latchOf (levels : Byte) : Latch := ⟨level levels .rs, dataNibble levels⟩

/-- The levels after one event (R78, R79). -/
def levelsAfter (levels : Byte) : PinEvent → Byte
  | .set l v => setBit levels l.bit v
  | .wait _ => levels
  | .acquire new => new
  | .release => levels

/-- The levels after a trace. -/
def replay : Byte → List PinEvent → Byte
  | levels, [] => levels
  | levels, e :: es => replay (levelsAfter levels e) es

/-- The latch events of a trace that starts with the lines at `levels` (R86: one for each Strobe). That a Strobe's event
counts from its `Set(EN, 1)` on, so that a trace cut off inside the Strobe has it already, is a DESIGN CHOICE
(notes/assumptions/24.md): R86 and D38 name no edge. -/
def latchesFrom : Byte → List PinEvent → List Latch
  | _, [] => []
  | levels, e :: es =>
    (match e with
      | .set .en true => [latchOf (levelsAfter levels e)]
      | _ => []) ++ latchesFrom (levelsAfter levels e) es

/-- The latch trace since power-on (R86); `LINES` is 0x00 at power-on (R34). -/
def State.latches (s : State) : List Latch := latchesFrom 0x00#8 s.trace

/-- The event a micro-operation appends (R79, R80). -/
def MicroOp.event : MicroOp → PinEvent
  | .setLine l v => .set l v
  | .wait t => .wait t

/-- The events a micro-program appends. -/
def eventsOf (ops : List MicroOp) : List PinEvent := ops.map MicroOp.event

/-- The waits of a micro-program, in microseconds: its minimum duration is this and one tick for each `SetLine`
(R79, R101). -/
def minMicros : List MicroOp → Nat
  | [] => 0
  | .setLine _ _ :: ops => minMicros ops
  | .wait t :: ops => t + minMicros ops

/-- The `SetLine`s of a micro-program (R79: one tick each). -/
def minTicks : List MicroOp → Nat
  | [] => 0
  | .setLine _ _ :: ops => minTicks ops + 1
  | .wait _ :: ops => minTicks ops

/-- The strobes of a micro-program (R81: each raises EN once). -/
def strobeCount : List MicroOp → Nat
  | [] => 0
  | .setLine .en true :: ops => strobeCount ops + 1
  | _ :: ops => strobeCount ops

/-- The waits in a part of the pin trace, in microseconds: the minimum duration of what drove it is this and one tick
for each `SetLine` (R79, R80, R174). -/
def traceMicros : List PinEvent → Nat
  | [] => 0
  | .wait t :: es => t + traceMicros es
  | .set _ _ :: es | .acquire _ :: es | .release :: es => traceMicros es

/-- The `SetLine`s in a part of the pin trace (R79: one tick each). -/
def traceTicks : List PinEvent → Nat
  | [] => 0
  | .set _ _ :: es => traceTicks es + 1
  | .wait _ :: es | .acquire _ :: es | .release :: es => traceTicks es

/-- The microseconds of a host WRITE_VALUE of `n` stored non-newline bytes and `r` row changes that issue
SET_CURSOR_ROW (R174): each is one byte on the lines. -/
def writeValueMicros (n r : Nat) : Nat := (n + r) * minMicros (byteOps 0x00#8 true)

/-- The ticks of a host WRITE_VALUE (R174). -/
def writeValueTicks (n r : Nat) : Nat := (n + r) * minTicks (byteOps 0x00#8 true)

end Sys2Proof.Machine
end

