-- ==== Sys2Proof/Safety.lean ====
section
/-! DEFINITION. What a good state is (the invariants of 10_state.md, 40_line_driver.md section 3 and 43_host_layer.md
R118) and what the host owes the controller and the Engine (the host duties of 42_init_sequencer.md R114,
43_host_layer.md R137 and 70_reset_and_hazards.md R162, R165, R166 and R168; notes/assumptions/18.md). -/

namespace Sys2Proof.Machine

/-- The invariants of the device instance (R118), with the canonical form of `BUF` and `COL` stuck at 0 (R140).
`row_le_len` is R118's reason for `ROW ≤ 32`: "each stored byte raises `ROW` by at most 1". -/
structure DevInst.Wf (h : DevInst) : Prop where
  buf_wf : h.buf.wf
  len_le : h.len.toNat ≤ 32
  zero_above : ∀ i, h.len.toNat ≤ i → readCell h.buf i = 0x00#8
  row_le_len : h.row.toNat ≤ h.len.toNat
  first_row : h.row = 0#6 → h.len.toNat ≤ 16
  col_zero : h.col = 0#5

/-- The level of EN after micro-operations that start with it at `en`. -/
def enAfter : Bool → List MicroOp → Bool
  | en, [] => en
  | _, .setLine .en v :: ops => enAfter v ops
  | en, _ :: ops => enAfter en ops

/-- A running request: it is in `REQ`, it passed its checks, `seq_pc` is inside its micro-program or at its end
(R18), and EN is what the micro-operations done so far left (R82). -/
structure RunningOk (s : State) (i : Instr) : Prop where
  latched : running s = some i
  admitted : failedCheck s.lstate i = none
  inside : s.seqPc.toNat ≤ (microProgram s.cfg i).length
  en_level : level s.lines .en = enAfter false ((microProgram s.cfg i).take s.seqPc.toNat)
  /-- `DLY` is other than 0 only at a `Wait`. This is the model's: it holds because acceptance clears `DLY`, a DESIGN
  CHOICE (notes/assumptions/3.md), where R19 leaves `DLY` open while no `Wait` runs. -/
  waiting : s.dly ≠ 0 → ∃ t, (microProgram s.cfg i)[s.seqPc.toNat]? = some (.wait t)

/-- The invariant of the whole machine. -/
structure State.Inv (s : State) : Prop where
  /-- R118. -/
  host_wf : ∀ h, s.host = some h → h.Wf
  /-- R35: an instance exists exactly while the lines are held. -/
  inst_oe : s.inst = s.oe
  /-- R84. -/
  rw_low : level s.lines .rw = false
  /-- R23, R24: a cause other than 0 came with `STICKY`, which no request clears. -/
  err_sticky : s.err ≠ .noError → s.sticky = true
  /-- R26, R78: `LINES` is what the pin trace says was driven. -/
  replayed : replay 0x00#8 s.trace = s.lines
  /-- R82: outside a request EN is 0. -/
  idle_en : s.busy = false → level s.lines .en = false
  /-- R18, R21: while `BUSY` = 1 a request runs. -/
  busy_runs : s.busy = true → ∃ i, RunningOk s i
  /-- R13, R114: while the host waits it has no request at the Engine, neither running nor on the port. -/
  wait_quiet : s.hostWait ≠ 0 → s.busy = false ∧ s.reqValid = false

/-! ## The host's duties

A schedule of inputs is followed input by input; what the duties need is carried along. A request runs whole where
the next input needs it done, so that a word is presented in the state in which `deliver` puts it on the port: also
while a request runs or an ACQ event is pending. -/

/-- What a schedule has come to. Durations are the host's own waits, in microseconds. -/
structure Duty where
  /-- The machine after the inputs so far, the latest deliveries pending on its ports. -/
  state : State
  /-- R168: a single nibble that was sent and whose partner is owed. -/
  half : Option (RegSel × Nibble)
  /-- R165: the last request sent a slow byte without its settle wait. -/
  slow : Bool
  /-- Waited since the last request. -/
  waited : Nat
  /-- Waited since the last successful ACQ. -/
  held : Nat
  /-- R166: the command nibbles sent with nothing else sent between them, newest first, each with the wait after it. -/
  hand : List (Nibble × Nat)
  deriving DecidableEq, Repr

/-- The bytes that need `T_SETTLE` after them (R165). -/
def slowCommand (b : Byte) : Bool :=
  b = 0x01#8 || b = 0x02#8 || b = 0x10#8 || b = 0x14#8 || b = 0x18#8 || b = 0x1C#8

/-- The request a call is, if it is one. -/
def asRequest (c : Code) : Option Instr :=
  match c with
  | .request w =>
    match decodeRequest w with
    | .ok i => some i
    | .error _ => none
  | .command _ _ => none

/-- The WRITE_NIBBLE a call is, if it is one. -/
def asNibble (c : Code) : Option (RegSel × Nibble) :=
  match asRequest c with
  | some (.writeNibble rs n) => some (rs, n)
  | _ => none

/-- A request reached the Engine in the call that led from `s` to `t`. A host command in READY that issues one drives
a line. -/
def issued (c : Code) (s t : State) : Bool :=
  match c with
  | .request _ => true
  | .command _ _ => decide (s.trace.length < t.trace.length)

/-- What the controller latched between `s` and `t` (R86). -/
def latchedBetween (s t : State) : List Latch := latchesFrom s.lines (t.trace.drop s.trace.length)

/-- DETACH has begun: it runs, or it is the word on the port. -/
def detaching (s : State) : Bool :=
  (s.busy && decide (running s = some .detach))
    || (s.reqValid && decide (asRequest (.request s.reqWord) = some .detach))

/-- The order of R162, R114 and R137, where a call is made or a word is put on the port, and where that word is
accepted: nothing before ACQ is taken; then INIT, `T_POWERON` later, and nothing else until it has completed; nothing
once DETACH has begun. -/
def keepsOrder (c : Code) (d : Duty) : Bool :=
  match d.state.lstate with
  | .off => false
  | .uninit =>
    decide (d.state.busy = false ∧ d.state.reqValid = false ∧ asRequest c = some .init
      ∧ d.state.cfg.powerOn ≤ d.held)
  | .ready => !detaching d.state

/-- The settle duty of R165: 2 ms between a slow byte and the next request. -/
def keepsSettle (next : Bool) (d : Duty) : Bool := !(next && d.slow) || decide (tSettle ≤ d.waited)

/-- The handshake waits of R166: they are owed where command nibbles 3, 3 and 3 come before a 2. -/
def keepsHandshake (c : Code) (d : Duty) : Bool :=
  match d.hand with
  | (x, wx) :: (y, wy) :: (z, wz) :: _ =>
    !decide (asNibble c = some (.cmd, 2#4) ∧ x = 3#4 ∧ y = 3#4 ∧ z = 3#4)
      || decide (tInit1 ≤ wz ∧ tInit2 ≤ wy ∧ tInit3 ≤ wx)
  | [] | [_] | [_, _] => true

/-- The pairing of R168 over a call that latched something: `none` where it breaks, else what is owed after it. The two
nibbles of one byte have one RS. -/
def pairAfter (c : Code) (half : Option (RegSel × Nibble)) : Option (Option (RegSel × Nibble)) :=
  match half, asNibble c with
  | none, some x => some (some x)
  | none, none => some none
  | some x, some y => if x.1 = y.1 then some none else none
  | some _, none => none

/-- A call that latched something ends in a slow command byte with no settle wait (R165): WRITE_BYTE CMD, or the second
nibble of a pair. -/
def sendsSlowByte (c : Code) (half : Option (RegSel × Nibble)) : Bool :=
  match asRequest c, half with
  | some (.writeByte .cmd b), _ => slowCommand b
  | some (.writeNibble .cmd n), some (.cmd, high) => slowCommand (high ++ n)
  | _, _ => false

/-- The command nibbles in a row after a call that latched something (R166). -/
def handAfter (c : Code) (hand : List (Nibble × Nat)) : List (Nibble × Nat) :=
  match asNibble c with
  | some (.cmd, n) => (n, 0) :: hand
  | _ => []

/-- `t` is the machine after the call `c`: the duties at the call, and what is owed after it. -/
def Duty.afterCall (c : Code) (t : State) (d : Duty) : Option Duty :=
  let next := issued c d.state t
  if keepsOrder c d && keepsSettle next d && keepsHandshake c d then
    if latchedBetween d.state t = [] then
      some { d with state := t, slow := d.slow && !next, waited := if next then 0 else d.waited }
    else
      match pairAfter c d.half with
      | some half =>
        some { d with
          state := t, half := half, slow := sendsSlowByte c d.half, waited := 0, hand := handAfter c d.hand }
      | none => none
  else none

/-- One call of the host; `none` where it breaks a duty, or is refused (R135, R143). -/
def Duty.call (c : Code) (d : Duty) : Option Duty :=
  match runCall c d.state with
  | .next t => d.afterCall c t
  | .fault _ | .refused _ => none

/-- The running request completes and the pending ACQ event is taken, before the word on the port (R21, R29, R149). -/
def Duty.settle (d : Duty) : Duty :=
  let s := drain d.state
  match s.acq with
  | some ok =>
    { d with
      state := takeAcq ok { s with acq := none }
      held := if s.lstate = .off ∧ ok = true then 0 else d.held }
  | none => { d with state := s }

/-- The machine comes to rest: the word on the port, if there is one, is accepted and runs (R28), and the host's wait is
over. -/
def Duty.flush (d : Duty) : Option Duty :=
  let d' := d.settle
  let s := { d'.state with reqValid := false, hostWait := 0 }
  if d'.state.reqValid then Duty.call (.request s.reqWord) { d' with state := s } else some { d' with state := s }

/-- An ACQ event is delivered, once none is pending (R29). -/
def Duty.acq (ok : Bool) (d : Duty) : Duty :=
  let d' := if d.state.acq = none then d else d.settle
  { d' with state := { d'.state with acq := some ok } }

/-- The state in which the next presented word reaches the port: behind a word that is there, once that one is accepted;
behind a wait, once it is over; else at once. -/
def Duty.beforePresent (d : Duty) : Duty :=
  if d.state.reqValid ∨ d.state.hostWait ≠ 0 then d.settle else d

/-- A word is put on the port (R28), in keeping with the order. -/
def Duty.present (w : ReqWord) (d : Duty) : Option Duty :=
  let d' := d.beforePresent
  if keepsOrder (.request w) d' then
    (if d'.state.reqValid then d'.flush else some d').map fun e =>
      { e with state := { e.state with reqValid := true, reqWord := w, hostWait := 0 } }
  else none

/-- Time the host waits. -/
def Duty.wait (micros : Nat) (d : Duty) : Duty :=
  { d with
    waited := d.waited + micros
    held := d.held + micros
    hand :=
      match d.hand with
      | (n, w) :: rest => (n, w + micros) :: rest
      | [] => [] }

/-- The attach procedure (R114) from a machine at rest. -/
def Duty.attach (ok : Bool) (d : Duty) : Option Duty :=
  let d' := (d.acq ok).settle
  if d.state.lstate = .off ∧ ok = true then
    Duty.call (.request (requestWord .init)) (d'.wait d'.state.cfg.powerOn)
  else some d'

/-- One input; a call, an attach and a wait begin when the machine is at rest (`runInput`). -/
def Duty.input (i : Input) (d : Duty) : Option Duty :=
  match i with
  | .acq ok => some (d.acq ok)
  | .present w => d.present w
  | .call c => d.flush.bind (Duty.call c)
  | .attach ok => d.flush.bind (Duty.attach ok)
  | .wait t =>
    d.flush.map fun d' =>
      { d'.wait t with state := { d'.state with hostWait := ticksFor d'.state.cfg t } }

/-- Every duty is kept over the inputs, and no nibble is owed at their end. -/
def Duty.keeps (d : Duty) : List Input → Bool
  | [] =>
    match d.flush with
    | some d' => d'.half.isNone
    | none => false
  | i :: rest =>
    match d.input i with
    | some d' => d'.keeps rest
    | none => false

/-- The duties at `s`, whose running request, port and pending ACQ event are as they stand. What the host owes from
before that request is not in `s`, nor whether it is the first or the second nibble of a byte: none is owed, and no time
has passed. -/
def Duty.start (s : State) : Duty where
  state := { s with inputs := [] }
  half := none
  slow := s.busy && sendsSlowByte (.request s.req) none
  waited := 0
  held := 0
  hand := if s.busy then handAfter (.request s.req) [] else []

/-- The schedule of `s` keeps every duty of the host that a schedule can break (R114, R137, R162, R165, R166, R168). -/
def keepsDuties (s : State) : Bool := (Duty.start s).keeps s.inputs

end Sys2Proof.Machine
end

