-- ==== Sys2Proof/Certificates/Slice0/Obligations.lean ====
section
/-! DEFINITION. The statements for the provers. The helpers of `Sys2Proof.Claims` write the spec's tables and
sequences out once more, in literals, so that a statement does not lean on the model's own micro-programs. -/

open Sys2Proof Sys2Proof.Machine

namespace Sys2Proof.Claims

/-- The nine events of `Nibble(v, rs)` (R89, R81). -/
def nibbleEvents (v : Nibble) (rs : Bool) : List PinEvent :=
  [.set .rs rs, .set .d4 (v.getLsbD 0), .set .d5 (v.getLsbD 1), .set .d6 (v.getLsbD 2), .set .d7 (v.getLsbD 3),
    .set .en true, .wait 1, .set .en false, .wait 50]

/-- The eighteen events of `Byte(b, rs)` (R90): bits 7:4, then bits 3:0. -/
def byteEvents (b : Byte) (rs : Bool) : List PinEvent :=
  nibbleEvents (b.extractLsb' 4 4) rs ++ nibbleEvents (b.extractLsb' 0 4) rs

/-- The events of INIT (R102). -/
def initEvents (emit0C : Bool) : List PinEvent :=
  nibbleEvents 3#4 false ++ [.wait 5000] ++ nibbleEvents 3#4 false ++ [.wait 200] ++ nibbleEvents 3#4 false
    ++ [.wait 200] ++ nibbleEvents 2#4 false ++ byteEvents 0x28#8 false ++ byteEvents 0x08#8 false
    ++ byteEvents 0x01#8 false ++ [.wait 2000] ++ byteEvents 0x06#8 false
    ++ (if emit0C then byteEvents 0x0C#8 false else []) ++ byteEvents 0x0F#8 false

/-- `LINES` after a nibble (R26, R89): the nibble on D7 to D4, BL kept, EN 0, RW kept, RS. -/
def linesWith (levels : Byte) (v : Nibble) (rs : Bool) : Byte :=
  v ++ levels.extractLsb' 3 1 ++ 0#1 ++ levels.extractLsb' 1 1 ++ BitVec.ofBool rs

/-- The state a request leaves that ran: word, step counter, events, levels; everything else as before (R18, R88).
`dly := 0` is the model's (notes/assumptions/3.md): no rule reads `DLY` while no `Wait` runs. So is that a call leaves
`REQ_VALID` and `REQ_WORD` alone (notes/assumptions/23.md). -/
def ran (s : State) (w : ReqWord) (steps : Nat) (events : List PinEvent) (levels : Byte) : State :=
  { s with
    req := w, seqPc := BitVec.ofNat 8 steps, dly := 0, busy := false, err := .noError
    lines := levels, trace := s.trace ++ events }

/-- The state a rejected request leaves: no line, no event; everything else as before (R146). `dly := 0` is the model's
(notes/assumptions/3.md), and `REQ_VALID` and `REQ_WORD` after a call or an acceptance are (23.md, 5.md). -/
def rejected (s : State) (w : ReqWord) (c : Cause) : State :=
  { s with
    req := w, seqPc := 0#8, dly := 0, busy := false, err := c, sticky := true, diag := s.diag ++ [.engine c] }

/-- The Engine idle and in service. -/
def Serving (s : State) : Prop := s.busy = false ∧ s.lstate = .ready

/-- The Engine in service and a device instance attached: where a host command runs (R137, R143). -/
def Attached (s : State) (h : DevInst) : Prop := Serving s ∧ s.host = some h

/-- The next step is the host's call `c` (R119). -/
def AtCall (s : State) (c : Code) (rest : List Input) : Prop :=
  s.busy = false ∧ s.acq = none ∧ s.reqValid = false ∧ s.hostWait = 0 ∧ s.inputs = .call c :: rest

/-- A word stands on the request port and the next step accepts it (R28). -/
def AtPort (s : State) : Prop := s.busy = false ∧ s.acq = none ∧ s.reqValid = true ∧ deliver s = none

/-- R66's table, once more. -/
def maskOfR66 (op : Nat) : ReqWord :=
  if op = 1 then 0x0EF0#16 else if op = 2 then 0x0E00#16 else if op = 6 then 0x0FFC#16
  else if op = 7 then 0x0F00#16 else if op = 8 then 0x0FFE#16 else 0x0FFF#16

/-- The opcode of a word, bits 15:12. -/
def opOf (w : ReqWord) : Nat := w.toNat / 4096

/-- The requests `SetRow(r)` issues (R120). -/
def rowRequests (p : RowPolicy) (r : Nat) : List Instr :=
  if r = 0 ∨ r = 1 then [.setCursorRow (BitVec.ofNat 8 r)]
  else if p = .clamp then [.setCursorRow 1#8] else []

/-- The requests WRITE_VALUE issues, from length `len` and row `row` (R121). -/
def writeRequests (p : RowPolicy) : List Byte → Nat → Nat → List Instr
  | [], _, _ => []
  | b :: bs, len, row =>
    if len = 32 then []
    else if b = 0x0A#8 then rowRequests p (row + 1) ++ writeRequests p bs (len + 1) (row + 1)
    else if row = 0 ∧ len > 15 then .setCursorRow 1#8 :: .writeByte .data b :: writeRequests p bs (len + 1) 1
    else .writeByte .data b :: writeRequests p bs (len + 1) row

/-- The row after WRITE_VALUE (R121, R123, R124). -/
def rowAfter : List Byte → Nat → Nat → Nat
  | [], _, row => row
  | b :: bs, len, row =>
    if len = 32 then row
    else if b = 0x0A#8 then rowAfter bs (len + 1) (row + 1)
    else if row = 0 ∧ len > 15 then rowAfter bs (len + 1) 1
    else rowAfter bs (len + 1) row

/-- The events of a request WRITE_VALUE issues. -/
def eventsOfWrite : Instr → List PinEvent
  | .writeByte .data b => byteEvents b true
  | .setCursorRow r => byteEvents (if r = 0#8 then 0x80#8 else 0xC0#8) false
  | _ => []

/-- SET_CURSOR_ROW. -/
def isRowRequest : Instr → Bool
  | .setCursorRow _ => true
  | _ => false

/-- The two latch events of a byte (R90). -/
def byteLatches (b : Byte) (rs : Bool) : List Latch := [⟨rs, b.extractLsb' 4 4⟩, ⟨rs, b.extractLsb' 0 4⟩]

/-- The latch events of each request (R92 to R100, R103, R113). -/
def latchesOf (emit0C : Bool) : Instr → List Latch
  | .writeNibble rs nib => [⟨rs = .data, nib⟩]
  | .writeByte rs b => byteLatches b (rs = .data)
  | .init =>
    [⟨false, 3#4⟩, ⟨false, 3#4⟩, ⟨false, 3#4⟩, ⟨false, 2#4⟩, ⟨false, 2#4⟩, ⟨false, 8#4⟩, ⟨false, 0#4⟩, ⟨false, 8#4⟩,
      ⟨false, 0#4⟩, ⟨false, 1#4⟩, ⟨false, 0#4⟩, ⟨false, 6#4⟩]
      ++ (if emit0C then [⟨false, 0#4⟩, ⟨false, 12#4⟩] else []) ++ [⟨false, 0#4⟩, ⟨false, 15#4⟩]
  | .clearScreen | .detach => byteLatches 0x01#8 false
  | .cursorReturn => byteLatches 0x02#8 false
  | .shift .display .right => byteLatches 0x1C#8 false
  | .shift .display .left => byteLatches 0x18#8 false
  | .shift .cursor .right => byteLatches 0x14#8 false
  | .shift .cursor .left => byteLatches 0x10#8 false
  | .setCursorRow r => byteLatches (if r = 0#8 then 0x80#8 else 0xC0#8) false
  | _ => []

/-- The five lines the controller samples (R82, R86). -/
def sameSampled (L M : Byte) : Prop := ∀ l ∈ [Line.rs, .d4, .d5, .d6, .d7], level L l = level M l

/-- Size, latch events, microseconds and ticks of a micro-program (R101). -/
def costs (ops : List MicroOp) : Nat × Nat × Nat × Nat := (ops.length, strobeCount ops, minMicros ops, minTicks ops)

end Sys2Proof.Claims

open Sys2Proof.Claims

/-! ## Encoding -/

/-- Tier 3. Decoding the encoding of a well-formed instruction gives it back, operands and all, under every
well-formed host code map (R57 to R66, R72). -/
def Obligations.DecodeOfEncodeIsTheInstruction : Prop :=
  ∀ (m : HostCodeMap) (i : Instr), m.wf → i.wf m → decode m (encode m i) = .ok i

/-- Whatever decodes is the encoding of the instruction read, which is well-formed: no two instructions share bits and
no bit of what is presented is dropped. -/
def Obligations.EncodeOfDecodeIsTheCode : Prop :=
  ∀ (m : HostCodeMap) (c : Code) (i : Instr), decode m c = .ok i → encode m i = c ∧ i.wf m

/-- R69 with R66's masks: the three outcomes of decoding a word, in order, over all 65536 words; a legal word keeps
its opcode, RS and OPD. -/
def Obligations.RequestDecodingHasThreeOutcomes : Prop :=
  ∀ w : ReqWord,
    ((opOf w = 0 ∨ 0xA ≤ opOf w) → decodeRequest w = .error .reservedOpcode) ∧
    ((opOf w ≠ 0 ∧ opOf w < 0xA) → w &&& maskOfR66 (opOf w) ≠ 0#16 → decodeRequest w = .error .reservedField) ∧
    ((opOf w ≠ 0 ∧ opOf w < 0xA) → w &&& maskOfR66 (opOf w) = 0#16 →
      ∃ i, decodeRequest w = .ok i ∧ i.isRequest = true ∧ requestWord i = w)

/-- Words written out from R57 to R66 and codes from R72 decode to the instructions they stand for. -/
def Obligations.SampleWordsDecode : Prop :=
  decodeTableWord 16 0b0001000100000101 = some (.writeNibble .data 5#4) ∧
  decodeTableWord 16 0b0010000101001000 = some (.writeByte .data 0x48#8) ∧
  decodeTableWord 16 0b0011000000000000 = some .init ∧
  decodeTableWord 16 0b0110000000000010 = some (.shift .display .left) ∧
  decodeTableWord 16 0b0111000000000001 = some (.setCursorRow 1#8) ∧
  decodeTableWord 16 0b1000000000000001 = some (.setBacklight true) ∧
  decodeTableWord 16 0b1001000000000000 = some .detach ∧
  decodeTableWord 16 0b0001000000010000 = none ∧
  decodeTableWord 8 0b00000001 = some .readValue ∧
  decodeTableWord 8 0b00000111 = some (.hostUnrecognized 0x07#8 []) ∧
  decode .placeholder (.command 0x05#8 [0x03#8]) = .ok (.hostShift .display .right)

/-! ## One step -/

/-- On an idle Engine with nothing pending before it, a call that decodes runs as `exec` says, the call taken off the
inputs. The list of inputs is the model's (notes/assumptions/5.md). -/
def Obligations.StepRunsTheDecodedCall : Prop :=
  ∀ (s : State) (c : Code) (rest : List Input) (i : Instr), AtCall s c rest → decode s.cfg.hostCodes c = .ok i →
    step s = exec i { s with inputs := rest }

/-- What is placed as the next instruction is what the next step runs, from any state. Where the model places it, and
that a host command finds an instance, is the model's choice (notes/assumptions/4.md). -/
def Obligations.PlacedWordRunsNext : Prop :=
  ∀ (s : State) (nbits w : Nat) (i : Instr),
    decode s.cfg.hostCodes (codeOfTableWord s.cfg.hostCodes nbits w) = .ok i →
    ∃ s₀, step (s.withFetchWord nbits w) = exec i s₀ ∧ s₀.busy = false ∧ s₀.inputs = s.inputs ∧ s₀.lines = s.lines
      ∧ s₀.trace = s.trace ∧ s₀.diag = s.diag ∧ s₀.cfg = s.cfg
      ∧ (8 < nbits → s₀.host = s.host ∧ s₀.lstate = s.lstate) ∧ (nbits ≤ 8 → s₀.host ≠ none)

/-- R67: a reserved opcode, 0x0 or 0xA to 0xF, does nothing to the lines and completes with RESERVED_OPCODE, called
or presented on the port; so does the word 0x0000. -/
def Obligations.ReservedOpcodeIsRejected : Prop :=
  (∀ (s : State) (w : ReqWord) (rest : List Input), AtCall s (.request w) rest → (opOf w = 0 ∨ 0xA ≤ opOf w) →
    step s = .next (rejected { s with inputs := rest } w .reservedOpcode)) ∧
  (∀ s : State, AtPort s → (opOf s.reqWord = 0 ∨ 0xA ≤ opOf s.reqWord) →
    step s = .next (rejected { s with reqValid := false } s.reqWord .reservedOpcode)) ∧
  opOf 0x0000#16 = 0

/-- R66: an assigned opcode with a 1 in a reserved bit completes with RESERVED_FIELD, before any lifecycle or row
check (R148), called or presented on the port. -/
def Obligations.ReservedFieldIsRejected : Prop :=
  (∀ (s : State) (w : ReqWord) (rest : List Input), AtCall s (.request w) rest → opOf w ≠ 0 → opOf w < 0xA →
    w &&& maskOfR66 (opOf w) ≠ 0#16 → step s = .next (rejected { s with inputs := rest } w .reservedField)) ∧
  (∀ s : State, AtPort s → opOf s.reqWord ≠ 0 → opOf s.reqWord < 0xA →
    s.reqWord &&& maskOfR66 (opOf s.reqWord) ≠ 0#16 →
    step s = .next (rejected { s with reqValid := false } s.reqWord .reservedField))

/-- A host payload of the wrong shape is refused at the host layer's boundary (R135). That it is refused as
malformedPayload with `INST` = 0 too, where R143 refuses as well, is the model's reading (notes/assumptions/12.md). -/
def Obligations.MalformedPayloadIsRefused : Prop :=
  ∀ (s : State) (hc : Byte) (payload : List Byte) (rest : List Input), AtCall s (.command hc payload) rest →
    s.cfg.hostCodes = .placeholder →
    ((hc ∈ [0x01#8, 0x02#8, 0x03#8, 0x04#8, 0x06#8] ∧ payload ≠ []) ∨
      (hc = 0x05#8 ∧ ∀ b, payload = [b] → 4 ≤ b.toNat)) →
    step s = .refused .malformedPayload

/-- R149: with an ACQ event and a request both pending on an idle Engine, this step takes the ACQ event and only it;
the request stays on the port. -/
def Obligations.AcqGoesBeforeARequest : Prop :=
  ∀ (s : State) (ok : Bool), s.busy = false → s.acq = some ok → deliver s = none →
    ∃ t, step s = .next t ∧ t = takeAcq ok { s with acq := none } ∧ t.acq = none ∧ t.reqValid = s.reqValid
      ∧ t.reqWord = s.reqWord ∧ t.req = s.req ∧ t.busy = false ∧ t.inputs = s.inputs

/-- While `BUSY` = 1 no request and no ACQ event is accepted and neither is lost (R21, R28, R29, R45): a step leaves
the ports, the latched word and the host layer's pending calls alone. -/
def Obligations.BusyEngineTakesNothing : Prop :=
  ∀ s : State, s.busy = true → deliver s = none →
    ∃ t, step s = .next t ∧ t.req = s.req ∧ t.reqValid = s.reqValid ∧ t.reqWord = s.reqWord ∧ t.acq = s.acq
      ∧ t.inputs = s.inputs ∧ t.diag = s.diag ∧ t.sticky = s.sticky ∧ t.replies = s.replies

/-- Acceptance at the port (R28): the word that passes its checks is latched, `BUSY` rises, `seq_pc` is 0, and no line
has changed yet. `dly := 0` is the model's (notes/assumptions/3.md), and so is that `REQ_VALID` falls (5.md). -/
def Obligations.PortAcceptanceLatchesTheWord : Prop :=
  ∀ (s : State) (i : Instr), AtPort s → decodeRequest s.reqWord = .ok i → failedCheck s.lstate i = none →
    step s = .next { s with reqValid := false, req := s.reqWord, busy := true, seqPc := 0#8, dly := 0 }

/-- With nothing pending an idle machine changes nothing (R159). -/
def Obligations.IdleMachineChangesNothing : Prop :=
  ∀ s : State, s.busy = false → s.acq = none → s.reqValid = false → s.hostWait = 0 → s.inputs = [] →
    step s = .next s

/-- A request on the port, run tick by tick, ends in the state the synchronous call of the same word gives at
once; so the one-step meanings and the sequencer with its `BUSY`, `seq_pc` and `DLY` are the same machine. -/
def Obligations.PortRunEqualsSynchronousCall : Prop :=
  ∀ s : State, s.busy = false → s.acq = none → s.reqValid = true → s.inputs = [] →
    ∃ n t, Sys2Proof.core.run n s = .next t ∧ t.busy = false ∧
      runCall (.request s.reqWord) { s with reqValid := false } = .next t

/-- A running request comes to its end by ticks alone (R21, R142). The last clause, that an instruction executed
meanwhile acts on exactly the state the request leaves, is the model's (notes/assumptions/10.md): R28 says it of
requests, no rule of READ_VALUE or an unrecognized code. -/
def Obligations.RunningRequestCompletes : Prop :=
  ∀ s : State, s.busy = true → s.inputs = [] →
    (∃ n, Sys2Proof.core.run n s = .next (drain s)) ∧ (drain s).busy = false ∧ ∀ i, exec i s = exec i (drain s)

/-! ## The Line Driver -/

/-- R79 in a run: the `SetLine` at `seq_pc` gives its line its level, leaves the other seven, appends its event and
moves `seq_pc` by one; nothing else changes. -/
def Obligations.SetLineTick : Prop :=
  ∀ (s : State) (i : Instr) (l : Line) (v : Bool), s.busy = true → s.inputs = [] → s.dly = 0 →
    decodeRequest s.req = .ok i → (microProgram s.cfg i)[s.seqPc.toNat]? = some (.setLine l v) →
    ∃ L, step s = .next { s with lines := L, trace := s.trace ++ [.set l v], seqPc := s.seqPc + 1#8 } ∧
      level L l = v ∧ ∀ k, k ≠ l → level L k = level s.lines k

/-- R80 in a run: a `Wait` loads `DLY` with the least number of ticks not shorter than its bound, counts it down with
every line held, and only at 0 appends its event and moves on. That it takes exactly one step to load and one for each
tick is the model's (notes/assumptions/6.md): R80 gives no upper bound. -/
def Obligations.WaitHoldsForItsTicks : Prop :=
  ∀ (s : State) (i : Instr) (t : Nat), s.busy = true → s.inputs = [] → s.dly = 0 → s.cfg.wf →
    decodeRequest s.req = .ok i → (microProgram s.cfg i)[s.seqPc.toNat]? = some (.wait t) →
    ∃ n, 0 < n ∧ t * s.cfg.tickDen ≤ n * s.cfg.tickNum ∧ (n - 1) * s.cfg.tickNum < t * s.cfg.tickDen ∧
      (∀ k, k < n → Sys2Proof.core.run (k + 1) s = .next { s with dly := n - k }) ∧
      Sys2Proof.core.run (n + 1) s =
        .next { s with dly := 0, trace := s.trace ++ [.wait t], seqPc := s.seqPc + 1#8 }

/-- R84. -/
def Obligations.RwStaysLow : Prop :=
  (∀ (c : Config) (i : Instr) (v : Bool), .setLine .rw v ∉ microProgram c i) ∧
  (∀ c : Config, level (acquiredLevels c) .rw = false) ∧
  (∀ s s' : State, s.Inv → step s = .next s' → s'.oe = true → level s'.lines .rw = false)

/-- R85, which the spec derives from the micro-programs: BL is in the micro-programs of SET_BACKLIGHT and DETACH only
and no nibble touches it; and a step that changes its level takes a successful ACQ, is a tick of SET_BACKLIGHT or
DETACH, or is a call of one of them or of the host commands that issue SET_BACKLIGHT. -/
def Obligations.BacklightHasThreeWriters : Prop :=
  (∀ (c : Config) (i : Instr) (v : Bool), .setLine .bl v ∈ microProgram c i →
    i = .setBacklight v ∨ (i = .detach ∧ v = false)) ∧
  (∀ (n : Nibble) (rs v : Bool), .setLine .bl v ∉ nibbleOps n rs) ∧
  (∀ (s : State) (i : Instr), i.isRequest = true → s.busy = false → (∀ v, i ≠ .setBacklight v) → i ≠ .detach →
    ∃ t, exec i s = .next t ∧ level t.lines .bl = level s.lines .bl) ∧
  (∀ s s' : State, step s = .next s' → level s'.lines .bl ≠ level s.lines .bl →
    (s.lstate = .off ∧ s'.lstate = .uninit ∧ s'.trace = s.trace ++ [.acquire (acquiredLevels s.cfg)]) ∨
    (s.busy = true ∧ ∃ v, s'.trace = s.trace ++ [.set .bl v] ∧
      (decodeRequest s.req = .ok (.setBacklight v) ∨ (decodeRequest s.req = .ok .detach ∧ v = false))) ∨
    (s.busy = false ∧ ∃ c rest i, s.inputs = .call c :: rest ∧ decode s.cfg.hostCodes c = .ok i ∧
      ((∃ v, i = .setBacklight v) ∨ i = .detach ∨ i = .backlightOn ∨ i = .backlightOff)))

/-- Tier 3. R82, which the spec derives from the micro-programs: outside a request EN is 0, and across a step that
starts with EN at 1 the levels of RS, D4, D5, D6 and D7 do not change. -/
def Obligations.SampledLinesHoldWhileEnabled : Prop :=
  ∀ s s' : State, s.Inv → step s = .next s' →
    (s.busy = false → level s.lines .en = false) ∧
    (level s.lines .en = true → s.busy = true ∧ sameSampled s.lines s'.lines)

/-- The table of R101, which the spec derives from R89 to R100; SET_CURSOR_ROW for the legal rows 0 and 1, a request
that fails a check with none. -/
def Obligations.RequestCostsAreR101 : Prop :=
  ∀ (c : Config) (rs : RegSel) (n : Nibble) (b : Byte) (t : ShiftTarget) (d : ShiftDir) (on : Bool),
    costs (microProgram c (.writeNibble rs n)) = (9, 1, 51, 7) ∧
    costs (microProgram c (.writeByte rs b)) = (18, 2, 102, 14) ∧
    costs (microProgram c .clearScreen) = (19, 2, 2102, 14) ∧
    costs (microProgram c .cursorReturn) = (19, 2, 2102, 14) ∧
    costs (microProgram c (.shift t d)) = (19, 2, 2102, 14) ∧
    (b.toNat < 2 → costs (microProgram c (.setCursorRow b)) = (18, 2, 102, 14)) ∧
    costs (microProgram c (.setBacklight on)) = (1, 0, 0, 1) ∧
    ∀ (i : Instr) (s : State) (e : Cause), i.isRequest = true → s.busy = false → failedCheck s.lstate i = some e →
      exec i s = .next (rejected s (requestWord i) e)

/-- The numbers of R108, which the spec derives from R102 and R101. -/
def Obligations.InitCostsAreR108 : Prop :=
  costs (initOps true) = (148, 16, 8216, 112) ∧ costs (initOps false) = (130, 14, 8114, 98)

/-! ## The requests, each with its whole next state -/

/-- WRITE_NIBBLE in READY (R92). -/
def Obligations.WriteNibbleResult : Prop :=
  ∀ (s : State) (rs : RegSel) (nib : Nibble), Serving s →
    exec (.writeNibble rs nib) s =
      .next (ran s (0x1#4 ++ 0#3 ++ BitVec.ofBool (rs = .data) ++ 0#4 ++ nib) 9 (nibbleEvents nib (rs = .data))
        (linesWith s.lines nib (rs = .data)))

/-- WRITE_BYTE in READY, every byte with either RS (R93). -/
def Obligations.WriteByteResult : Prop :=
  ∀ (s : State) (rs : RegSel) (b : Byte), Serving s →
    exec (.writeByte rs b) s =
      .next (ran s (0x2#4 ++ 0#3 ++ BitVec.ofBool (rs = .data) ++ b) 18 (byteEvents b (rs = .data))
        (linesWith s.lines (b.extractLsb' 0 4) (rs = .data)))

/-- CLEAR_SCREEN and CURSOR_RETURN in READY: bytes 0x01 and 0x02, then 2 ms (R94, R95). -/
def Obligations.SettledCommandResults : Prop :=
  ∀ s : State, Serving s →
    exec .clearScreen s =
      .next (ran s 0x4000#16 19 (byteEvents 0x01#8 false ++ [.wait 2000]) (linesWith s.lines 0x1#4 false)) ∧
    exec .cursorReturn s =
      .next (ran s 0x5000#16 19 (byteEvents 0x02#8 false ++ [.wait 2000]) (linesWith s.lines 0x2#4 false))

/-- R97: the SHIFT mapping, complete, each with the word and the byte sent. -/
def Obligations.ShiftMappingIsR97 : Prop :=
  ∀ s : State, Serving s → ∀ (t : ShiftTarget) (d : ShiftDir) (w : ReqWord) (b : Byte),
    (t, d, w, b) ∈ [(ShiftTarget.display, ShiftDir.right, 0x6003#16, 0x1C#8), (.display, .left, 0x6002#16, 0x18#8),
      (.cursor, .right, 0x6001#16, 0x14#8), (.cursor, .left, 0x6000#16, 0x10#8)] →
    exec (.shift t d) s =
      .next (ran s w 19 (byteEvents b false ++ [.wait 2000]) (linesWith s.lines (b.extractLsb' 0 4) false))

/-- SET_CURSOR_ROW with a legal row in READY: 0x80 or 0xC0 and no settle wait (R98). -/
def Obligations.SetCursorRowResult : Prop :=
  ∀ s : State, Serving s →
    exec (.setCursorRow 0#8) s = .next (ran s 0x7000#16 18 (byteEvents 0x80#8 false) (linesWith s.lines 0#4 false)) ∧
    exec (.setCursorRow 1#8) s = .next (ran s 0x7001#16 18 (byteEvents 0xC0#8 false) (linesWith s.lines 0#4 false))

/-- R99. -/
def Obligations.RowOfTwoOrMoreIsRejected : Prop :=
  ∀ (s : State) (row : Byte), Serving s → 2 ≤ row.toNat →
    exec (.setCursorRow row) s = .next (rejected s (0x70#8 ++ row) .rowRange)

/-- SET_BACKLIGHT in READY: one event, BL and no other line (R100). -/
def Obligations.SetBacklightResult : Prop :=
  ∀ s : State, Serving s →
    exec (.setBacklight true) s = .next (ran s 0x8001#16 1 [.set .bl true] (s.lines ||| 0x08#8)) ∧
    exec (.setBacklight false) s = .next (ran s 0x8000#16 1 [.set .bl false] (s.lines &&& 0xF7#8))

/-- Every request but INIT, in OFF or UNINIT, is rejected with NOT_READY, even with a row of 2 or more (R88, R113,
R148). -/
def Obligations.RequestsOutsideReadyAreRejected : Prop :=
  ∀ (s : State) (i : Instr), i.isRequest = true → i ≠ .init → s.busy = false → s.lstate ≠ .ready →
    exec i s = .next (rejected s (requestWord i) .notReady)

/-- INIT in UNINIT: the fixed handshake, READY at the end (R102), with `INIT_EMIT_0C` either way (R106). -/
def Obligations.InitResult : Prop :=
  ∀ s : State, s.busy = false → s.lstate = .uninit →
    exec .init s =
      .next { ran s 0x3000#16 (if s.cfg.initEmit0C then 148 else 130) (initEvents s.cfg.initEmit0C)
        (linesWith s.lines 0xF#4 false) with lstate := .ready }

/-- INIT in READY or OFF is rejected with INIT_STATE and changes no line (R104). -/
def Obligations.InitOutsideUninitIsRejected : Prop :=
  ∀ s : State, s.busy = false → s.lstate ≠ .uninit → exec .init s = .next (rejected s 0x3000#16 .initState)

/-- DETACH in READY: backlight off, clear-screen with its settle wait, then the lines are released and the instance
is destroyed (R113, R138). -/
def Obligations.DetachResult : Prop :=
  ∀ s : State, Serving s →
    exec .detach s =
      .next { ran s 0x9000#16 20 ([.set .bl false] ++ byteEvents 0x01#8 false ++ [.wait 2000] ++ [.release])
        (0x1#4 ++ 0#1 ++ 0#1 ++ s.lines.extractLsb' 1 1 ++ 0#1) with lstate := .off, host := none }

/-- What the controller latches for every request that passes its checks (R86, R90, R103): appended to the latch
trace, in order, and nothing else. -/
def Obligations.LatchTraceOfEveryRequest : Prop :=
  ∀ (s : State) (i : Instr), i.isRequest = true → s.busy = false → failedCheck s.lstate i = none →
    replay 0x00#8 s.trace = s.lines → level s.lines .en = false →
    ∃ t, exec i s = .next t ∧ t.latches = s.latches ++ latchesOf s.cfg.initEmit0C i

/-! ## Lifecycle -/

/-- R34. -/
def Obligations.PowerOnState : Prop :=
  State.reset.lstate = .off ∧ State.reset.busy = false ∧ State.reset.seqPc = 0#8 ∧ State.reset.dly = 0 ∧
  State.reset.req = 0x0000#16 ∧ State.reset.err = .noError ∧ State.reset.sticky = false ∧
  State.reset.lines = 0x00#8 ∧ State.reset.oe = false ∧ State.reset.diag = [] ∧ State.reset.status = 0x0000#16

/-- R22, with the cause codes of R145. -/
def Obligations.StatusLayout : Prop :=
  (∀ s : State, s.status.getLsbD 0 = s.busy ∧ s.status.extractLsb' 1 2 = s.lstate.code ∧
    s.status.getLsbD 3 = s.sticky ∧ s.status.extractLsb' 4 4 = s.err.code ∧ s.status.extractLsb' 8 8 = 0#8) ∧
  [Cause.noError, .reservedOpcode, .reservedField, .notReady, .initState, .acquireFail, .alreadyAttached,
    .rowRange].map Cause.code = [0#4, 1#4, 2#4, 3#4, 4#4, 5#4, 6#4, 7#4]

/-- R110. -/
def Obligations.SuccessfulAcq : Prop :=
  ∀ s : State, s.busy = false → s.acq = some true → s.lstate = .off → deliver s = none →
    step s = .next { s with
      acq := none
      lines := if s.cfg.blResetLevel then 0x08#8 else 0x00#8
      lstate := .uninit
      err := .noError
      sticky := false
      trace := s.trace ++ [.acquire (if s.cfg.blResetLevel then 0x08#8 else 0x00#8)]
      host := some ⟨[], 0#6, 0#6, 0#5⟩ }

/-- R111. -/
def Obligations.FailedAcq : Prop :=
  ∀ s : State, s.busy = false → s.acq = some false → s.lstate = .off → deliver s = none →
    step s = .next { s with
      acq := none, err := .acquireFail, sticky := true, diag := s.diag ++ [.engine .acquireFail] }

/-- ACQ while an instance exists is rejected with ALREADY_ATTACHED, whatever its bit, and changes nothing else (R112,
R148). -/
def Obligations.AcqWhileAttached : Prop :=
  ∀ (s : State) (ok : Bool), s.busy = false → s.acq = some ok → s.lstate ≠ .off → deliver s = none →
    step s = .next { s with
      acq := none, err := .alreadyAttached, sticky := true, diag := s.diag ++ [.engine .alreadyAttached] }

/-- While the host waits, nothing it does next reaches the Engine: a presented word is held back until the wait is over
(R13, R114); only an ACQ event may come. The attach procedure, whole (R114, R115, R137): from an idle machine in OFF,
after ACQ, the power-on wait and INIT, the device is READY with a fresh instance, and nothing was presented in between.
That the procedure is one input, and the number of steps, are the model's (notes/assumptions/6.md, 7.md). -/
def Obligations.AttachEndsReady : Prop :=
  (∀ (s : State) (k : Nat), s.busy = false → s.acq = none → s.reqValid = false → k ≤ s.hostWait →
    (∀ ok rest, s.inputs ≠ .acq ok :: rest) → Sys2Proof.core.run k s = .next { s with hostWait := s.hostWait - k }) ∧
  ∀ (s : State) (rest : List Input), s.busy = false → s.acq = none → s.reqValid = false → s.hostWait = 0 →
    s.lstate = .off → s.inputs = .attach true :: rest →
    ∃ t, Sys2Proof.core.run (ticksFor s.cfg s.cfg.powerOn + 2) s = .next t ∧ t.lstate = .ready ∧
      t.host = some ⟨[], 0#6, 0#6, 0#5⟩ ∧ t.inputs = rest ∧ t.err = .noError ∧ t.sticky = false ∧ t.diag = s.diag ∧
      t.trace = s.trace ++ .acquire (if s.cfg.blResetLevel then 0x08#8 else 0x00#8) :: initEvents s.cfg.initEmit0C ∧
      t.lines = if s.cfg.blResetLevel then 0xF8#8 else 0xF0#8

/-- Tier 3. R20: the values of `LSTATE`, and its only transitions, each with the event that makes it; power-on is
OFF. -/
def Obligations.LifecycleTransitions : Prop :=
  State.reset.lstate = .off ∧ LState.code .off = 0#2 ∧ LState.code .uninit = 1#2 ∧ LState.code .ready = 2#2 ∧
  ∀ s s' : State, s.Inv → step s = .next s' → s'.lstate ≠ s.lstate →
    (s.lstate = .off ∧ s'.lstate = .uninit ∧ s'.trace = s.trace ++ [.acquire (acquiredLevels s.cfg)]) ∨
    (s.lstate = .uninit ∧ s'.lstate = .ready ∧ s'.req = 0x3000#16 ∧ s'.busy = false ∧ s'.err = .noError) ∨
    (s.lstate = .ready ∧ s'.lstate = .off ∧ s'.req = 0x9000#16 ∧ s'.busy = false ∧ s'.err = .noError ∧
      s'.host = none)

/-- R24: `STICKY` rises with every error completion, and only a successful ACQ clears it again; power-on value 0. -/
def Obligations.StickyUntilSuccessfulAcq : Prop :=
  State.reset.sticky = false ∧
  ∀ s s' : State, step s = .next s' →
    ((∃ c, DiagEvent.engine c ∈ s'.diag.drop s.diag.length) → s'.sticky = true) ∧
    (s.sticky = true → s'.sticky = false →
      s.lstate = .off ∧ s'.lstate = .uninit ∧ s'.trace = s.trace ++ [.acquire (acquiredLevels s.cfg)])

/-! ## The host layer -/

/-- R122 and R127: the write path completes for every byte sequence; it accepts `min(n, 32 - LEN)` bytes in order
behind what the buffer holds, and reports BUFFER_FULL once exactly when bytes are left over. -/
def Obligations.WriteValueBuffer : Prop :=
  ∀ (s : State) (h : DevInst) (bytes : List Byte), Attached s h → h.Wf →
    ∃ t h', exec (.writeValue bytes) s = .next t ∧ t.host = some h' ∧
      h'.len.toNat = h.len.toNat + min bytes.length (32 - h.len.toNat) ∧
      (∀ i, i < h.len.toNat → readCell h'.buf i = readCell h.buf i) ∧
      (∀ k, k < min bytes.length (32 - h.len.toNat) → readCell h'.buf (h.len.toNat + k) = bytes.getD k 0x00#8) ∧
      (∀ i, h'.len.toNat ≤ i → readCell h'.buf i = 0x00#8) ∧
      t.diag = s.diag ++ (if 32 < h.len.toNat + bytes.length then [.host .bufferFull] else []) ∧
      t.replies = s.replies

/-- The requests WRITE_VALUE issues, in order, and the row it ends on (R120, R121, R123, R124), under both values of
`ROW_OVERFLOW_POLICY`; and its minimum duration, for `n` stored non-newline bytes and `r` row changes that issue
SET_CURSOR_ROW (R174). -/
def Obligations.WriteValueRequests : Prop :=
  ∀ (s : State) (h : DevInst) (bytes : List Byte), Attached s h → h.Wf →
    ∃ t h', exec (.writeValue bytes) s = .next t ∧ t.host = some h' ∧
      h'.row.toNat = rowAfter bytes h.len.toNat h.row.toNat ∧
      t.trace = s.trace ++
        (writeRequests s.cfg.rowOverflow bytes h.len.toNat h.row.toNat).flatMap eventsOfWrite ∧
      ∀ n r, n = ((bytes.take (32 - h.len.toNat)).filter (· ≠ 0x0A#8)).length →
        r = ((writeRequests s.cfg.rowOverflow bytes h.len.toNat h.row.toNat).filter isRowRequest).length →
        traceMicros (t.trace.drop s.trace.length) = (n + r) * 102 ∧ writeValueMicros n r = (n + r) * 102 ∧
        traceTicks (t.trace.drop s.trace.length) = (n + r) * 14 ∧ writeValueTicks n r = (n + r) * 14

/-- The frame of WRITE_VALUE: beside `BUF`, `LEN`, `ROW`, the diagnostic and what its requests do to the Engine (`REQ`,
`seq_pc`, `DLY`, `LINES`, the trace; `ERR` is 0 once a request has run), it changes nothing; BL, RW and EN end as they
began. That `REQ_VALID` and `REQ_WORD` keep their values is the model's (notes/assumptions/23.md). -/
def Obligations.WriteValueFrame : Prop :=
  ∀ (s : State) (h : DevInst) (bytes : List Byte), Attached s h → h.Wf →
    ∃ t h', exec (.writeValue bytes) s = .next t ∧ t.host = some h' ∧ h'.col = h.col ∧
      t.cfg = s.cfg ∧ t.lstate = s.lstate ∧ t.busy = false ∧ t.sticky = s.sticky ∧
      t.err = (if writeRequests s.cfg.rowOverflow bytes h.len.toNat h.row.toNat = [] then s.err else .noError) ∧
      (writeRequests s.cfg.rowOverflow bytes h.len.toNat h.row.toNat = [] →
        t.req = s.req ∧ t.seqPc = s.seqPc ∧ t.dly = s.dly ∧ t.lines = s.lines) ∧
      level t.lines .bl = level s.lines .bl ∧ level t.lines .rw = level s.lines .rw ∧
      (level s.lines .en = false → level t.lines .en = false) ∧
      t.reqValid = s.reqValid ∧ t.reqWord = s.reqWord ∧ t.acq = s.acq ∧ t.hostWait = s.hostWait ∧
      t.inputs = s.inputs ∧ t.replies = s.replies

/-- READ_VALUE returns the length and exactly that many bytes, in index order, and touches nothing else (R128). That the
result goes to `replies` is the model's (notes/assumptions/8.md); so is that the command runs with an instance in UNINIT
too (notes/assumptions/11.md), where R137 has the host dispatch none. -/
def Obligations.ReadValueResult : Prop :=
  ∀ (s : State) (h : DevInst), s.busy = false → s.host = some h → h.len.toNat ≤ 32 →
    exec .readValue s =
      .next { s with replies := s.replies ++ [⟨h.len, (List.range h.len.toNat).map (readCell h.buf)⟩] }

/-- What was written is what is read (95_test_vectors.md W1, W4): READ_VALUE after WRITE_VALUE returns the bytes the
buffer held and then those accepted. -/
def Obligations.ReadAfterWriteReturnsTheBytes : Prop :=
  ∀ (s : State) (h : DevInst) (bytes : List Byte), Attached s h → h.Wf →
    ∃ t u n, exec (.writeValue bytes) s = .next t ∧ exec .readValue t = .next u ∧
      u.replies = s.replies ++ [⟨n, (List.range h.len.toNat).map (readCell h.buf) ++
        bytes.take (32 - h.len.toNat)⟩] ∧
      n.toNat = h.len.toNat + min bytes.length (32 - h.len.toNat)

/-- CLEAR_SCREEN of the host layer: an empty buffer, row and column 0, then the request 0x4000 (R129). -/
def Obligations.HostClearResult : Prop :=
  ∀ (s : State) (h : DevInst), Attached s h →
    exec .hostClearScreen s =
      .next { ran s 0x4000#16 19 (byteEvents 0x01#8 false ++ [.wait 2000]) (linesWith s.lines 0x1#4 false) with
        host := some ⟨[], 0#6, 0#6, 0#5⟩ }

/-- R130, R131: codes 0x03 and 0x04, the requests 0x8001 and 0x8000, host state unchanged. -/
def Obligations.HostBacklightResults : Prop :=
  decode .placeholder (.command 0x03#8 []) = .ok .backlightOn ∧
  decode .placeholder (.command 0x04#8 []) = .ok .backlightOff ∧
  ∀ (s : State) (h : DevInst), Attached s h →
    exec .backlightOn s = .next (ran s 0x8001#16 1 [.set .bl true] (s.lines ||| 0x08#8)) ∧
    exec .backlightOff s = .next (ran s 0x8000#16 1 [.set .bl false] (s.lines &&& 0xF7#8))

/-- R132: code 0x05 and one payload byte, bit 1 target, bit 0 direction; the request 0x6000 | t<<1 | d; host state
unchanged. -/
def Obligations.HostShiftResult : Prop :=
  ∀ (t : ShiftTarget) (d : ShiftDir) (payload : Byte) (w : ReqWord) (b : Byte),
    (t, d, payload, w, b) ∈ [(ShiftTarget.display, ShiftDir.right, 3#8, 0x6003#16, 0x1C#8),
      (.display, .left, 2#8, 0x6002#16, 0x18#8), (.cursor, .right, 1#8, 0x6001#16, 0x14#8),
      (.cursor, .left, 0#8, 0x6000#16, 0x10#8)] →
    decode .placeholder (.command 0x05#8 [payload]) = .ok (.hostShift t d) ∧
    ∀ (s : State) (h : DevInst), Attached s h →
      exec (.hostShift t d) s =
        .next (ran s w 19 (byteEvents b false ++ [.wait 2000]) (linesWith s.lines (b.extractLsb' 0 4) false))

/-- R133: code 0x06, the request 0x5000, host state unchanged. -/
def Obligations.HostCursorReturnResult : Prop :=
  decode .placeholder (.command 0x06#8 []) = .ok .hostCursorReturn ∧
  ∀ (s : State) (h : DevInst), Attached s h →
    exec .hostCursorReturn s =
      .next (ran s 0x5000#16 19 (byteEvents 0x02#8 false ++ [.wait 2000]) (linesWith s.lines 0x2#4 false))

/-- R134: a code the map does not assign decodes to the unrecognized command, which appends one diagnostic and does
nothing else. That it does so whatever `LSTATE` is, in UNINIT too, where R137 has the host dispatch none, is the model's
(notes/assumptions/11.md). -/
def Obligations.UnrecognizedCodeIsANoOp : Prop :=
  (∀ (m : HostCodeMap) (hc : Byte) (payload : List Byte), hc ∉ m.codes →
    decode m (.command hc payload) = .ok (.hostUnrecognized hc payload)) ∧
  ∀ (s : State) (h : DevInst) (hc : Byte) (payload : List Byte), s.busy = false → s.host = some h →
    exec (.hostUnrecognized hc payload) s = .next { s with diag := s.diag ++ [.host .unrecognizedCommand] }

/-- R143: with `INST` = 0 every host command is refused; and a request but INIT that reached the Engine in OFF anyway
would be rejected with NOT_READY. -/
def Obligations.HostCommandWithoutInstance : Prop :=
  (∀ (s : State) (i : Instr), i.isRequest = false → s.busy = false → s.inst = false →
    exec i s = .refused .noInstance) ∧
  ∀ (s : State) (i : Instr), i.isRequest = true → i ≠ .init → s.busy = false → s.lstate = .off →
    exec i s = .next (rejected s (requestWord i) .notReady)

/-- An access to `BUF` outside indices 0 to 31 is a fault (R49, 93_implementation_defined.md I28): with `LEN` over 32,
which R118 rules out in every run, READ_VALUE and a WRITE_VALUE of any byte stop. -/
def Obligations.BufferIndexFault : Prop :=
  ∀ (s : State) (h : DevInst), s.busy = false → s.host = some h → 32 < h.len.toNat →
    exec .readValue s = .fault .bufIndex ∧ ∀ b bs, exec (.writeValue (b :: bs)) s = .fault .bufIndex

/-- R118, which the spec derives from R121 to R125 and R129: the invariants of the device instance after every host
command, in every lifecycle state (in UNINIT by notes/assumptions/11.md), with the row bound they give; `ROW` never
decreases except by CLEAR. -/
def Obligations.HostCommandsKeepR118 : Prop :=
  ∀ (s t : State) (h : DevInst) (i : Instr), i.isRequest = false → s.busy = false → s.host = some h → h.Wf →
    exec i s = .next t →
    ∃ h', t.host = some h' ∧ h'.Wf ∧ h'.len.toNat ≤ 32 ∧ (∀ k, h'.len.toNat ≤ k → readCell h'.buf k = 0x00#8) ∧
      h'.row.toNat ≤ 32 ∧ (h'.row = 0#6 → h'.len.toNat ≤ 16) ∧
      (i ≠ .hostClearScreen → h.row.toNat ≤ h'.row.toNat)

/-- No host command breaks the nibble pairing (R168, R43): each appends an even number of latch events. -/
def Obligations.HostCommandsKeepNibblePairs : Prop :=
  ∀ (s : State) (h : DevInst) (i : Instr), i.isRequest = false → Attached s h → h.Wf →
    replay 0x00#8 s.trace = s.lines → level s.lines .en = false →
    ∃ (t : State) (ls : List Latch), exec i s = .next t ∧ t.latches = s.latches ++ ls ∧ ls.length % 2 = 0

/-! ## The whole machine -/

/-- Power-on meets the invariant. -/
def Obligations.PowerOnMeetsTheInvariant : Prop := State.reset.Inv

/-- Tier 3. Every step keeps the invariant of the whole machine: R118 for the instance, INST with OE (R35), RW low
(R84), a cause only with STICKY (R23, R24), `LINES` as the pin trace says (R78), EN low outside a request (R82), a
running request inside its micro-program (R18), and no request at the Engine while the host waits (R13, R114). The
clause that `DLY` of a running request is other than 0 only at a `Wait` (`RunningOk.waiting`) is the model's: it rests
on acceptance clearing `DLY`, the DESIGN CHOICE of notes/assumptions/3.md, where R19 leaves `DLY` open. -/
def Obligations.StepKeepsTheInvariant : Prop :=
  ∀ s s' : State, s.Inv → step s = .next s' → s'.Inv

/-- From a good state with a well-formed schedule a step never faults: every stop that is left is the refusal of a host
command with no instance, or of a malformed payload. -/
def Obligations.GoodStatesDoNotFault : Prop :=
  ∀ s : State, s.Inv →
    (∃ t, step s = .next t) ∨ (step s = .refused .noInstance ∧ s.inst = false) ∨
      step s = .refused .malformedPayload

/-- No step removes a diagnostic (R30) or a pin event (R78). That no step changes a parameter, and that the list of
replies only grows, are the model's own clauses (notes/assumptions/2.md and 8.md). -/
def Obligations.StreamsOnlyGrow : Prop :=
  ∀ s s' : State, step s = .next s' →
    s'.cfg = s.cfg ∧ s.trace <+: s'.trace ∧ s.diag <+: s'.diag ∧ s.replies <+: s'.replies
end

