-- ==== Sys2Proof/Laws/State.lean ====
section
/-! SUPPORT. One lemma per field per update, each true by rfl, so that no proof unfolds a record update. -/

namespace Sys2Proof.Machine

variable (s : State)

@[simp] theorem advance_cfg : (advance s).cfg = s.cfg := rfl
@[simp] theorem advance_req : (advance s).req = s.req := rfl
@[simp] theorem advance_seqPc : (advance s).seqPc = s.seqPc + 1#8 := rfl
@[simp] theorem advance_dly : (advance s).dly = s.dly := rfl
@[simp] theorem advance_lstate : (advance s).lstate = s.lstate := rfl
@[simp] theorem advance_busy : (advance s).busy = s.busy := rfl
@[simp] theorem advance_err : (advance s).err = s.err := rfl
@[simp] theorem advance_sticky : (advance s).sticky = s.sticky := rfl
@[simp] theorem advance_lines : (advance s).lines = s.lines := rfl
@[simp] theorem advance_trace : (advance s).trace = s.trace := rfl
@[simp] theorem advance_diag : (advance s).diag = s.diag := rfl
@[simp] theorem advance_reqValid : (advance s).reqValid = s.reqValid := rfl
@[simp] theorem advance_reqWord : (advance s).reqWord = s.reqWord := rfl
@[simp] theorem advance_acq : (advance s).acq = s.acq := rfl
@[simp] theorem advance_host : (advance s).host = s.host := rfl
@[simp] theorem advance_replies : (advance s).replies = s.replies := rfl
@[simp] theorem advance_hostWait : (advance s).hostWait = s.hostWait := rfl
@[simp] theorem advance_inputs : (advance s).inputs = s.inputs := rfl

@[simp] theorem setLine_cfg (l : Line) (v : Bool) : (setLine l v s).cfg = s.cfg := rfl
@[simp] theorem setLine_req (l : Line) (v : Bool) : (setLine l v s).req = s.req := rfl
@[simp] theorem setLine_seqPc (l : Line) (v : Bool) : (setLine l v s).seqPc = s.seqPc := rfl
@[simp] theorem setLine_dly (l : Line) (v : Bool) : (setLine l v s).dly = s.dly := rfl
@[simp] theorem setLine_lstate (l : Line) (v : Bool) : (setLine l v s).lstate = s.lstate := rfl
@[simp] theorem setLine_busy (l : Line) (v : Bool) : (setLine l v s).busy = s.busy := rfl
@[simp] theorem setLine_err (l : Line) (v : Bool) : (setLine l v s).err = s.err := rfl
@[simp] theorem setLine_sticky (l : Line) (v : Bool) : (setLine l v s).sticky = s.sticky := rfl
@[simp] theorem setLine_lines (l : Line) (v : Bool) : (setLine l v s).lines = setBit s.lines l.bit v := rfl
@[simp] theorem setLine_trace (l : Line) (v : Bool) : (setLine l v s).trace = s.trace ++ [.set l v] := rfl
@[simp] theorem setLine_diag (l : Line) (v : Bool) : (setLine l v s).diag = s.diag := rfl
@[simp] theorem setLine_reqValid (l : Line) (v : Bool) : (setLine l v s).reqValid = s.reqValid := rfl
@[simp] theorem setLine_reqWord (l : Line) (v : Bool) : (setLine l v s).reqWord = s.reqWord := rfl
@[simp] theorem setLine_acq (l : Line) (v : Bool) : (setLine l v s).acq = s.acq := rfl
@[simp] theorem setLine_host (l : Line) (v : Bool) : (setLine l v s).host = s.host := rfl
@[simp] theorem setLine_replies (l : Line) (v : Bool) : (setLine l v s).replies = s.replies := rfl
@[simp] theorem setLine_hostWait (l : Line) (v : Bool) : (setLine l v s).hostWait = s.hostWait := rfl
@[simp] theorem setLine_inputs (l : Line) (v : Bool) : (setLine l v s).inputs = s.inputs := rfl

@[simp] theorem beginWait_cfg (t : Nat) : (beginWait t s).cfg = s.cfg := rfl
@[simp] theorem beginWait_req (t : Nat) : (beginWait t s).req = s.req := rfl
@[simp] theorem beginWait_seqPc (t : Nat) : (beginWait t s).seqPc = s.seqPc := rfl
@[simp] theorem beginWait_dly (t : Nat) : (beginWait t s).dly = ticksFor s.cfg t := rfl
@[simp] theorem beginWait_lstate (t : Nat) : (beginWait t s).lstate = s.lstate := rfl
@[simp] theorem beginWait_busy (t : Nat) : (beginWait t s).busy = s.busy := rfl
@[simp] theorem beginWait_err (t : Nat) : (beginWait t s).err = s.err := rfl
@[simp] theorem beginWait_sticky (t : Nat) : (beginWait t s).sticky = s.sticky := rfl
@[simp] theorem beginWait_lines (t : Nat) : (beginWait t s).lines = s.lines := rfl
@[simp] theorem beginWait_trace (t : Nat) : (beginWait t s).trace = s.trace := rfl
@[simp] theorem beginWait_diag (t : Nat) : (beginWait t s).diag = s.diag := rfl
@[simp] theorem beginWait_reqValid (t : Nat) : (beginWait t s).reqValid = s.reqValid := rfl
@[simp] theorem beginWait_reqWord (t : Nat) : (beginWait t s).reqWord = s.reqWord := rfl
@[simp] theorem beginWait_acq (t : Nat) : (beginWait t s).acq = s.acq := rfl
@[simp] theorem beginWait_host (t : Nat) : (beginWait t s).host = s.host := rfl
@[simp] theorem beginWait_replies (t : Nat) : (beginWait t s).replies = s.replies := rfl
@[simp] theorem beginWait_hostWait (t : Nat) : (beginWait t s).hostWait = s.hostWait := rfl
@[simp] theorem beginWait_inputs (t : Nat) : (beginWait t s).inputs = s.inputs := rfl

@[simp] theorem endWait_cfg (es : List PinEvent) : (endWait es s).cfg = s.cfg := rfl
@[simp] theorem endWait_req (es : List PinEvent) : (endWait es s).req = s.req := rfl
@[simp] theorem endWait_seqPc (es : List PinEvent) : (endWait es s).seqPc = s.seqPc + 1#8 := rfl
@[simp] theorem endWait_dly (es : List PinEvent) : (endWait es s).dly = 0 := rfl
@[simp] theorem endWait_lstate (es : List PinEvent) : (endWait es s).lstate = s.lstate := rfl
@[simp] theorem endWait_busy (es : List PinEvent) : (endWait es s).busy = s.busy := rfl
@[simp] theorem endWait_err (es : List PinEvent) : (endWait es s).err = s.err := rfl
@[simp] theorem endWait_sticky (es : List PinEvent) : (endWait es s).sticky = s.sticky := rfl
@[simp] theorem endWait_lines (es : List PinEvent) : (endWait es s).lines = s.lines := rfl
@[simp] theorem endWait_trace (es : List PinEvent) : (endWait es s).trace = s.trace ++ es := rfl
@[simp] theorem endWait_diag (es : List PinEvent) : (endWait es s).diag = s.diag := rfl
@[simp] theorem endWait_reqValid (es : List PinEvent) : (endWait es s).reqValid = s.reqValid := rfl
@[simp] theorem endWait_reqWord (es : List PinEvent) : (endWait es s).reqWord = s.reqWord := rfl
@[simp] theorem endWait_acq (es : List PinEvent) : (endWait es s).acq = s.acq := rfl
@[simp] theorem endWait_host (es : List PinEvent) : (endWait es s).host = s.host := rfl
@[simp] theorem endWait_replies (es : List PinEvent) : (endWait es s).replies = s.replies := rfl
@[simp] theorem endWait_hostWait (es : List PinEvent) : (endWait es s).hostWait = s.hostWait := rfl
@[simp] theorem endWait_inputs (es : List PinEvent) : (endWait es s).inputs = s.inputs := rfl

@[simp] theorem emit_cfg (e : DiagEvent) : (emit e s).cfg = s.cfg := rfl
@[simp] theorem emit_req (e : DiagEvent) : (emit e s).req = s.req := rfl
@[simp] theorem emit_seqPc (e : DiagEvent) : (emit e s).seqPc = s.seqPc := rfl
@[simp] theorem emit_dly (e : DiagEvent) : (emit e s).dly = s.dly := rfl
@[simp] theorem emit_lstate (e : DiagEvent) : (emit e s).lstate = s.lstate := rfl
@[simp] theorem emit_busy (e : DiagEvent) : (emit e s).busy = s.busy := rfl
@[simp] theorem emit_err (e : DiagEvent) : (emit e s).err = s.err := rfl
@[simp] theorem emit_sticky (e : DiagEvent) : (emit e s).sticky = s.sticky := rfl
@[simp] theorem emit_lines (e : DiagEvent) : (emit e s).lines = s.lines := rfl
@[simp] theorem emit_trace (e : DiagEvent) : (emit e s).trace = s.trace := rfl
@[simp] theorem emit_diag (e : DiagEvent) : (emit e s).diag = s.diag ++ [e] := rfl
@[simp] theorem emit_reqValid (e : DiagEvent) : (emit e s).reqValid = s.reqValid := rfl
@[simp] theorem emit_reqWord (e : DiagEvent) : (emit e s).reqWord = s.reqWord := rfl
@[simp] theorem emit_acq (e : DiagEvent) : (emit e s).acq = s.acq := rfl
@[simp] theorem emit_host (e : DiagEvent) : (emit e s).host = s.host := rfl
@[simp] theorem emit_replies (e : DiagEvent) : (emit e s).replies = s.replies := rfl
@[simp] theorem emit_hostWait (e : DiagEvent) : (emit e s).hostWait = s.hostWait := rfl
@[simp] theorem emit_inputs (e : DiagEvent) : (emit e s).inputs = s.inputs := rfl

@[simp] theorem raiseError_cfg (c : Cause) : (raiseError c s).cfg = s.cfg := rfl
@[simp] theorem raiseError_req (c : Cause) : (raiseError c s).req = s.req := rfl
@[simp] theorem raiseError_seqPc (c : Cause) : (raiseError c s).seqPc = s.seqPc := rfl
@[simp] theorem raiseError_dly (c : Cause) : (raiseError c s).dly = s.dly := rfl
@[simp] theorem raiseError_lstate (c : Cause) : (raiseError c s).lstate = s.lstate := rfl
@[simp] theorem raiseError_busy (c : Cause) : (raiseError c s).busy = false := rfl
@[simp] theorem raiseError_err (c : Cause) : (raiseError c s).err = c := rfl
@[simp] theorem raiseError_sticky (c : Cause) : (raiseError c s).sticky = true := rfl
@[simp] theorem raiseError_lines (c : Cause) : (raiseError c s).lines = s.lines := rfl
@[simp] theorem raiseError_trace (c : Cause) : (raiseError c s).trace = s.trace := rfl
@[simp] theorem raiseError_diag (c : Cause) : (raiseError c s).diag = s.diag ++ [.engine c] := rfl
@[simp] theorem raiseError_reqValid (c : Cause) : (raiseError c s).reqValid = s.reqValid := rfl
@[simp] theorem raiseError_reqWord (c : Cause) : (raiseError c s).reqWord = s.reqWord := rfl
@[simp] theorem raiseError_acq (c : Cause) : (raiseError c s).acq = s.acq := rfl
@[simp] theorem raiseError_host (c : Cause) : (raiseError c s).host = s.host := rfl
@[simp] theorem raiseError_replies (c : Cause) : (raiseError c s).replies = s.replies := rfl
@[simp] theorem raiseError_hostWait (c : Cause) : (raiseError c s).hostWait = s.hostWait := rfl
@[simp] theorem raiseError_inputs (c : Cause) : (raiseError c s).inputs = s.inputs := rfl

@[simp] theorem accept_cfg (w : ReqWord) : (accept w s).cfg = s.cfg := rfl
@[simp] theorem accept_req (w : ReqWord) : (accept w s).req = w := rfl
@[simp] theorem accept_seqPc (w : ReqWord) : (accept w s).seqPc = 0#8 := rfl
@[simp] theorem accept_dly (w : ReqWord) : (accept w s).dly = 0 := rfl
@[simp] theorem accept_lstate (w : ReqWord) : (accept w s).lstate = s.lstate := rfl
@[simp] theorem accept_busy (w : ReqWord) : (accept w s).busy = true := rfl
@[simp] theorem accept_err (w : ReqWord) : (accept w s).err = s.err := rfl
@[simp] theorem accept_sticky (w : ReqWord) : (accept w s).sticky = s.sticky := rfl
@[simp] theorem accept_lines (w : ReqWord) : (accept w s).lines = s.lines := rfl
@[simp] theorem accept_trace (w : ReqWord) : (accept w s).trace = s.trace := rfl
@[simp] theorem accept_diag (w : ReqWord) : (accept w s).diag = s.diag := rfl
@[simp] theorem accept_reqValid (w : ReqWord) : (accept w s).reqValid = s.reqValid := rfl
@[simp] theorem accept_reqWord (w : ReqWord) : (accept w s).reqWord = s.reqWord := rfl
@[simp] theorem accept_acq (w : ReqWord) : (accept w s).acq = s.acq := rfl
@[simp] theorem accept_host (w : ReqWord) : (accept w s).host = s.host := rfl
@[simp] theorem accept_replies (w : ReqWord) : (accept w s).replies = s.replies := rfl
@[simp] theorem accept_hostWait (w : ReqWord) : (accept w s).hostWait = s.hostWait := rfl
@[simp] theorem accept_inputs (w : ReqWord) : (accept w s).inputs = s.inputs := rfl

@[simp] theorem endRequest_cfg : (endRequest s).cfg = s.cfg := rfl
@[simp] theorem endRequest_req : (endRequest s).req = s.req := rfl
@[simp] theorem endRequest_seqPc : (endRequest s).seqPc = s.seqPc := rfl
@[simp] theorem endRequest_dly : (endRequest s).dly = s.dly := rfl
@[simp] theorem endRequest_lstate : (endRequest s).lstate = s.lstate := rfl
@[simp] theorem endRequest_busy : (endRequest s).busy = false := rfl
@[simp] theorem endRequest_err : (endRequest s).err = .noError := rfl
@[simp] theorem endRequest_sticky : (endRequest s).sticky = s.sticky := rfl
@[simp] theorem endRequest_lines : (endRequest s).lines = s.lines := rfl
@[simp] theorem endRequest_trace : (endRequest s).trace = s.trace := rfl
@[simp] theorem endRequest_diag : (endRequest s).diag = s.diag := rfl
@[simp] theorem endRequest_reqValid : (endRequest s).reqValid = s.reqValid := rfl
@[simp] theorem endRequest_reqWord : (endRequest s).reqWord = s.reqWord := rfl
@[simp] theorem endRequest_acq : (endRequest s).acq = s.acq := rfl
@[simp] theorem endRequest_host : (endRequest s).host = s.host := rfl
@[simp] theorem endRequest_replies : (endRequest s).replies = s.replies := rfl
@[simp] theorem endRequest_hostWait : (endRequest s).hostWait = s.hostWait := rfl
@[simp] theorem endRequest_inputs : (endRequest s).inputs = s.inputs := rfl

@[simp] theorem becomeReady_cfg : (becomeReady s).cfg = s.cfg := rfl
@[simp] theorem becomeReady_req : (becomeReady s).req = s.req := rfl
@[simp] theorem becomeReady_seqPc : (becomeReady s).seqPc = s.seqPc := rfl
@[simp] theorem becomeReady_dly : (becomeReady s).dly = s.dly := rfl
@[simp] theorem becomeReady_lstate : (becomeReady s).lstate = .ready := rfl
@[simp] theorem becomeReady_busy : (becomeReady s).busy = s.busy := rfl
@[simp] theorem becomeReady_err : (becomeReady s).err = s.err := rfl
@[simp] theorem becomeReady_sticky : (becomeReady s).sticky = s.sticky := rfl
@[simp] theorem becomeReady_lines : (becomeReady s).lines = s.lines := rfl
@[simp] theorem becomeReady_trace : (becomeReady s).trace = s.trace := rfl
@[simp] theorem becomeReady_diag : (becomeReady s).diag = s.diag := rfl
@[simp] theorem becomeReady_reqValid : (becomeReady s).reqValid = s.reqValid := rfl
@[simp] theorem becomeReady_reqWord : (becomeReady s).reqWord = s.reqWord := rfl
@[simp] theorem becomeReady_acq : (becomeReady s).acq = s.acq := rfl
@[simp] theorem becomeReady_host : (becomeReady s).host = s.host := rfl
@[simp] theorem becomeReady_replies : (becomeReady s).replies = s.replies := rfl
@[simp] theorem becomeReady_hostWait : (becomeReady s).hostWait = s.hostWait := rfl
@[simp] theorem becomeReady_inputs : (becomeReady s).inputs = s.inputs := rfl

@[simp] theorem releaseLines_cfg : (releaseLines s).cfg = s.cfg := rfl
@[simp] theorem releaseLines_req : (releaseLines s).req = s.req := rfl
@[simp] theorem releaseLines_seqPc : (releaseLines s).seqPc = s.seqPc := rfl
@[simp] theorem releaseLines_dly : (releaseLines s).dly = s.dly := rfl
@[simp] theorem releaseLines_lstate : (releaseLines s).lstate = .off := rfl
@[simp] theorem releaseLines_busy : (releaseLines s).busy = s.busy := rfl
@[simp] theorem releaseLines_err : (releaseLines s).err = s.err := rfl
@[simp] theorem releaseLines_sticky : (releaseLines s).sticky = s.sticky := rfl
@[simp] theorem releaseLines_lines : (releaseLines s).lines = s.lines := rfl
@[simp] theorem releaseLines_trace : (releaseLines s).trace = s.trace ++ [.release] := rfl
@[simp] theorem releaseLines_diag : (releaseLines s).diag = s.diag := rfl
@[simp] theorem releaseLines_reqValid : (releaseLines s).reqValid = s.reqValid := rfl
@[simp] theorem releaseLines_reqWord : (releaseLines s).reqWord = s.reqWord := rfl
@[simp] theorem releaseLines_acq : (releaseLines s).acq = s.acq := rfl
@[simp] theorem releaseLines_host : (releaseLines s).host = none := rfl
@[simp] theorem releaseLines_replies : (releaseLines s).replies = s.replies := rfl
@[simp] theorem releaseLines_hostWait : (releaseLines s).hostWait = s.hostWait := rfl
@[simp] theorem releaseLines_inputs : (releaseLines s).inputs = s.inputs := rfl

@[simp] theorem acquire_cfg : (acquire s).cfg = s.cfg := rfl
@[simp] theorem acquire_req : (acquire s).req = s.req := rfl
@[simp] theorem acquire_seqPc : (acquire s).seqPc = s.seqPc := rfl
@[simp] theorem acquire_dly : (acquire s).dly = s.dly := rfl
@[simp] theorem acquire_lstate : (acquire s).lstate = .uninit := rfl
@[simp] theorem acquire_busy : (acquire s).busy = false := rfl
@[simp] theorem acquire_err : (acquire s).err = .noError := rfl
@[simp] theorem acquire_sticky : (acquire s).sticky = false := rfl
@[simp] theorem acquire_lines : (acquire s).lines = acquiredLevels s.cfg := rfl
@[simp] theorem acquire_trace : (acquire s).trace = s.trace ++ [.acquire (acquiredLevels s.cfg)] := rfl
@[simp] theorem acquire_diag : (acquire s).diag = s.diag := rfl
@[simp] theorem acquire_reqValid : (acquire s).reqValid = s.reqValid := rfl
@[simp] theorem acquire_reqWord : (acquire s).reqWord = s.reqWord := rfl
@[simp] theorem acquire_acq : (acquire s).acq = s.acq := rfl
@[simp] theorem acquire_host : (acquire s).host = some .fresh := rfl
@[simp] theorem acquire_replies : (acquire s).replies = s.replies := rfl
@[simp] theorem acquire_hostWait : (acquire s).hostWait = s.hostWait := rfl
@[simp] theorem acquire_inputs : (acquire s).inputs = s.inputs := rfl

@[simp] theorem withInst_cfg (h : DevInst) : (withInst h s).cfg = s.cfg := rfl
@[simp] theorem withInst_req (h : DevInst) : (withInst h s).req = s.req := rfl
@[simp] theorem withInst_seqPc (h : DevInst) : (withInst h s).seqPc = s.seqPc := rfl
@[simp] theorem withInst_dly (h : DevInst) : (withInst h s).dly = s.dly := rfl
@[simp] theorem withInst_lstate (h : DevInst) : (withInst h s).lstate = s.lstate := rfl
@[simp] theorem withInst_busy (h : DevInst) : (withInst h s).busy = s.busy := rfl
@[simp] theorem withInst_err (h : DevInst) : (withInst h s).err = s.err := rfl
@[simp] theorem withInst_sticky (h : DevInst) : (withInst h s).sticky = s.sticky := rfl
@[simp] theorem withInst_lines (h : DevInst) : (withInst h s).lines = s.lines := rfl
@[simp] theorem withInst_trace (h : DevInst) : (withInst h s).trace = s.trace := rfl
@[simp] theorem withInst_diag (h : DevInst) : (withInst h s).diag = s.diag := rfl
@[simp] theorem withInst_reqValid (h : DevInst) : (withInst h s).reqValid = s.reqValid := rfl
@[simp] theorem withInst_reqWord (h : DevInst) : (withInst h s).reqWord = s.reqWord := rfl
@[simp] theorem withInst_acq (h : DevInst) : (withInst h s).acq = s.acq := rfl
@[simp] theorem withInst_host (h : DevInst) : (withInst h s).host = some h := rfl
@[simp] theorem withInst_replies (h : DevInst) : (withInst h s).replies = s.replies := rfl
@[simp] theorem withInst_hostWait (h : DevInst) : (withInst h s).hostWait = s.hostWait := rfl
@[simp] theorem withInst_inputs (h : DevInst) : (withInst h s).inputs = s.inputs := rfl

end Sys2Proof.Machine
end

