-- ==== Sys2Proof/Laws/Ops.lean ====
section
/-! SUPPORT. What running micro-operations does, said once: `runOps_eq` gives the whole next state. -/

namespace Sys2Proof.Machine

@[simp] theorem replay_nil (L : Byte) : replay L [] = L := rfl

@[simp] theorem replay_cons (L : Byte) (e : PinEvent) (es : List PinEvent) :
    replay L (e :: es) = replay (levelsAfter L e) es := rfl

theorem replay_append (L : Byte) (es fs : List PinEvent) : replay L (es ++ fs) = replay (replay L es) fs := by
  induction es generalizing L with
  | nil => rfl
  | cons e es ih => exact ih _

@[simp] theorem eventsOf_nil : eventsOf [] = [] := rfl

@[simp] theorem eventsOf_cons (op : MicroOp) (ops : List MicroOp) :
    eventsOf (op :: ops) = op.event :: eventsOf ops := rfl

@[simp] theorem eventsOf_append (xs ys : List MicroOp) : eventsOf (xs ++ ys) = eventsOf xs ++ eventsOf ys :=
  List.map_append ..

/-- One micro-operation on a state with no `Wait` running. -/
theorem perform_eq (op : MicroOp) (s : State) (h : s.dly = 0) :
    perform op s = { s with
      lines := levelsAfter s.lines op.event, trace := s.trace ++ [op.event], seqPc := s.seqPc + 1#8 } := by
  cases op <;> simp [perform, advance, setLine, endWait, beginWait, MicroOp.event, levelsAfter, ← h]

/-- A list of micro-operations on a state with no `Wait` running: the lines follow the events, the events are
appended, `seq_pc` counts them, and nothing else changes. -/
theorem runOps_eq (ops : List MicroOp) (s : State) (h : s.dly = 0) :
    runOps ops s = { s with
      lines := replay s.lines (eventsOf ops)
      trace := s.trace ++ eventsOf ops
      seqPc := s.seqPc + BitVec.ofNat 8 ops.length } := by
  induction ops generalizing s with
  | nil => simp [runOps]
  | cons op ops ih =>
    rw [runOps, ih _ (by rw [perform_eq op s h]; exact h), perform_eq op s h]
    simp only [eventsOf_cons, replay_cons, List.append_assoc, List.singleton_append, List.length_cons]
    congr 1
    rw [BitVec.add_assoc, BitVec.ofNat_add, BitVec.add_comm 1#8]

theorem runOps_append (xs ys : List MicroOp) (s : State) : runOps (xs ++ ys) s = runOps ys (runOps xs s) := by
  induction xs generalizing s with
  | nil => rfl
  | cons x xs ih => exact ih _

/-! The bits of `LINES`. -/

theorem getLsbD_setBit (x : Byte) (i j : Nat) (v : Bool) (hi : i < 8) :
    (setBit x i v).getLsbD j = if i = j then v else x.getLsbD j := by
  unfold setBit
  by_cases hj : j < 8
  · have e : j < 1 ↔ j = 0 := by omega
    interval_cases i <;> interval_cases j <;> cases v <;> simp
  · have h2 : i ≠ j := by omega
    have h3 : 8 ≤ j := by omega
    simp [BitVec.getLsbD_of_ge _ _ h3, h2]

theorem Line.bit_lt (l : Line) : l.bit < 8 := by cases l <;> decide

theorem Line.bit_inj {l k : Line} : l.bit = k.bit ↔ l = k := by cases l <;> cases k <;> decide

/-- A `SetLine` sets its line and no other (R79). -/
@[simp] theorem level_setBit (L : Byte) (l k : Line) (v : Bool) :
    level (setBit L l.bit v) k = if l = k then v else level L k := by
  simp [level, getLsbD_setBit _ _ _ _ l.bit_lt, Line.bit_inj]

/-- Two `LINES` values with the same level on every line are equal. -/
theorem levels_ext {L M : Byte} (h : ∀ l, level L l = level M l) : L = M := by
  refine BitVec.eq_of_getLsbD_eq fun i hi => ?_
  interval_cases i
  · exact h .rs
  · exact h .rw
  · exact h .en
  · exact h .bl
  · exact h .d4
  · exact h .d5
  · exact h .d6
  · exact h .d7

@[simp] theorem traceMicros_append (es fs : List PinEvent) :
    traceMicros (es ++ fs) = traceMicros es + traceMicros fs := by
  induction es with
  | nil => simp [traceMicros]
  | cons e es ih => cases e <;> simp [traceMicros, ih, Nat.add_assoc]

@[simp] theorem traceTicks_append (es fs : List PinEvent) :
    traceTicks (es ++ fs) = traceTicks es + traceTicks fs := by
  induction es with
  | nil => simp [traceTicks]
  | cons e es ih => cases e <;> simp [traceTicks, ih, Nat.add_right_comm]

end Sys2Proof.Machine
end

