-- ==== Sys2Proof/Laws/PerInstr.lean ====
section
/-! SUPPORT. One lemma per instruction: the family `RequestWord`, the request word of each request decodes to it
(30_encoding.md R57 to R69). -/

namespace Sys2Proof.Laws.RequestWord

/-- A request's word decodes to the request; nothing is said of a host command, which has no request word. -/
def Statement (i : Instr) : Prop := i.isRequest = true → decodeRequest (requestWord i) = .ok i

/-- Closed over every operand value, each of the operand-carrying words is checked by evaluation. -/
theorem writeNibble (rs : RegSel) (nib : Nibble) : Statement (.writeNibble rs nib) := by
  intro _
  cases rs <;> revert nib <;> decide +kernel

theorem writeByte (rs : RegSel) (byte : Byte) : Statement (.writeByte rs byte) := by
  intro _
  cases rs <;> revert byte <;> decide +kernel

theorem init : Statement .init := fun _ => by decide

theorem clearScreen : Statement .clearScreen := fun _ => by decide

theorem cursorReturn : Statement .cursorReturn := fun _ => by decide

theorem shift (tgt : ShiftTarget) (dir : ShiftDir) : Statement (.shift tgt dir) := by
  intro _
  cases tgt <;> cases dir <;> decide

theorem setCursorRow (row : Byte) : Statement (.setCursorRow row) := by
  intro _
  revert row
  decide +kernel

theorem setBacklight (on : Bool) : Statement (.setBacklight on) := by
  intro _
  cases on <;> decide

theorem detach : Statement .detach := fun _ => by decide

theorem writeValue (bytes : List Byte) : Statement (.writeValue bytes) := nofun

theorem readValue : Statement .readValue := nofun

theorem hostClearScreen : Statement .hostClearScreen := nofun

theorem backlightOn : Statement .backlightOn := nofun

theorem backlightOff : Statement .backlightOff := nofun

theorem hostShift (tgt : ShiftTarget) (dir : ShiftDir) : Statement (.hostShift tgt dir) := nofun

theorem hostCursorReturn : Statement .hostCursorReturn := nofun

theorem hostUnrecognized (code : Byte) (payload : List Byte) : Statement (.hostUnrecognized code payload) := nofun

/-- Every instruction has the property. -/
theorem all (i : Instr) : Statement i := by
  cases i with
  | writeNibble rs nib => exact writeNibble rs nib
  | writeByte rs byte => exact writeByte rs byte
  | init => exact init
  | clearScreen => exact clearScreen
  | cursorReturn => exact cursorReturn
  | shift tgt dir => exact shift tgt dir
  | setCursorRow row => exact setCursorRow row
  | setBacklight on => exact setBacklight on
  | detach => exact detach
  | writeValue bytes => exact writeValue bytes
  | readValue => exact readValue
  | hostClearScreen => exact hostClearScreen
  | backlightOn => exact backlightOn
  | backlightOff => exact backlightOff
  | hostShift tgt dir => exact hostShift tgt dir
  | hostCursorReturn => exact hostCursorReturn
  | hostUnrecognized code payload => exact hostUnrecognized code payload

end Sys2Proof.Laws.RequestWord
end

