-- ==== Sys2Proof/Laws/Engine.lean ====
section
/-! SUPPORT. What the micro-programs do to the lines, and the spec lemmas of a request: `serveIdle_rejected`,
`serveIdle_ran` and `serve_idle`, which the provers cite in place of unfolding the sequencer. -/

namespace Sys2Proof.Machine

/-! The micro-programs as a whole. -/

theorem enAfter_append (en : Bool) (xs ys : List MicroOp) : enAfter en (xs ++ ys) = enAfter (enAfter en xs) ys := by
  induction xs generalizing en with
  | nil => rfl
  | cons x xs ih => cases x with
    | wait t => exact ih _
    | setLine l v => cases l <;> exact ih _

/-- EN after the events of a list of micro-operations. -/
theorem level_en_replay (L : Byte) (ops : List MicroOp) :
    level (replay L (eventsOf ops)) .en = enAfter (level L .en) ops := by
  induction ops generalizing L with
  | nil => rfl
  | cons op ops ih => cases op with
    | wait t => exact ih _
    | setLine l v => cases l <;> simp [MicroOp.event, levelsAfter, ih, enAfter]

/-- A line no micro-operation sets keeps its level. -/
theorem level_replay_of_not_mem (L : Byte) (ops : List MicroOp) (k : Line) (h : ∀ v, .setLine k v ∉ ops) :
    level (replay L (eventsOf ops)) k = level L k := by
  induction ops generalizing L with
  | nil => rfl
  | cons op ops ih =>
    have h' : ∀ v, MicroOp.setLine k v ∉ ops := fun v hv => h v (List.mem_cons_of_mem _ hv)
    cases op with
    | wait t => exact ih _ h'
    | setLine l v =>
      have hl : l ≠ k := fun e => h v (by simp [e])
      simp [MicroOp.event, levelsAfter, ih _ h', hl]

@[simp] theorem enAfter_wait (en : Bool) (t : Nat) (ops : List MicroOp) :
    enAfter en (.wait t :: ops) = enAfter en ops := rfl

@[simp] theorem enAfter_nibbleOps (en : Bool) (v : Nibble) (rs : Bool) : enAfter en (nibbleOps v rs) = false := rfl

@[simp] theorem enAfter_byteOps (en : Bool) (b : Byte) (rs : Bool) : enAfter en (byteOps b rs) = false := by
  simp [byteOps, enAfter_append]

@[simp] theorem enAfter_commandOps (en : Bool) (b : Byte) : enAfter en (commandOps b) = false := enAfter_byteOps ..

@[simp] theorem enAfter_settledCommandOps (en : Bool) (b : Byte) : enAfter en (settledCommandOps b) = false := by
  simp [settledCommandOps, enAfter_append, enAfter]

@[simp] theorem enAfter_initOps (en c : Bool) : enAfter en (initOps c) = false := by
  simp [initOps, enAfter_append]

/-- Every micro-program ends with EN as it found it, at 0 (R82). -/
theorem enAfter_microProgram (c : Config) (i : Instr) : enAfter false (microProgram c i) = false := by
  cases i <;> simp [microProgram, detachOps, enAfter]

@[simp] theorem length_nibbleOps (v : Nibble) (rs : Bool) : (nibbleOps v rs).length = 9 := rfl

@[simp] theorem length_byteOps (b : Byte) (rs : Bool) : (byteOps b rs).length = 18 := rfl

@[simp] theorem length_commandOps (b : Byte) : (commandOps b).length = 18 := rfl

@[simp] theorem length_settledCommandOps (b : Byte) : (settledCommandOps b).length = 19 := rfl

/-- No micro-program is longer than INIT's 148 (R18), so `seq_pc` does not wrap. -/
theorem length_microProgram_le (c : Config) (i : Instr) : (microProgram c i).length ≤ 148 := by
  cases i <;> simp [microProgram, detachOps, initOps]
  split <;> simp

/-- The level of each line in a `LINES` value written out field by field (R26). -/
theorem level_fields (v : Nibble) (bl en rw rs : BitVec 1) (l : Line) :
    level (v ++ bl ++ en ++ rw ++ rs) l =
      match l with
      | .rs => rs.getLsbD 0
      | .rw => rw.getLsbD 0
      | .en => en.getLsbD 0
      | .bl => bl.getLsbD 0
      | .d4 => v.getLsbD 0
      | .d5 => v.getLsbD 1
      | .d6 => v.getLsbD 2
      | .d7 => v.getLsbD 3 := by
  cases l <;> revert v bl en rw rs <;> decide +kernel

/-- The lines after one nibble: the nibble on D7 to D4, EN low, RS as given, RW and BL as before (R89). -/
theorem replay_nibbleOps (L : Byte) (v : Nibble) (rs : Bool) :
    replay L (eventsOf (nibbleOps v rs)) = v ++ L.extractLsb' 3 1 ++ 0#1 ++ L.extractLsb' 1 1 ++ bit1 rs := by
  refine levels_ext fun l => ?_
  simp only [nibbleOps, strobeOps, eventsOf_cons, eventsOf_nil, List.cons_append, List.nil_append,
    MicroOp.event, replay_cons, replay_nil, levelsAfter, level_setBit]
  rw [level_fields]
  cases l <;> simp [level, Line.bit, bit1]

/-! One request. -/

/-- A rejected request: latched, then the error completion; no line, no micro-operation (R146). -/
theorem serveIdle_rejected {i : Instr} {s : State} {c : Cause} (h : failedCheck s.lstate i = some c) :
    serveIdle i s = { s with
      req := requestWord i, seqPc := 0#8, dly := 0, busy := false, err := c, sticky := true
      diag := s.diag ++ [.engine c] } := by
  simp [serveIdle, h, raiseError, emit, accept]

/-- A request that passes its checks: its micro-program in full, then its completion (R88). -/
theorem serveIdle_ran {i : Instr} {s : State} (h : failedCheck s.lstate i = none) :
    serveIdle i s = complete i { s with
      req := requestWord i, seqPc := BitVec.ofNat 8 (microProgram s.cfg i).length, dly := 0, busy := true
      lines := replay s.lines (eventsOf (microProgram s.cfg i))
      trace := s.trace ++ eventsOf (microProgram s.cfg i) } := by
  simp [serveIdle, h, runOps_eq, accept]

/-- An idle Engine has nothing to drain. -/
theorem drain_idle {s : State} (h : s.busy = false) : drain s = s := by simp [drain, h]

theorem serve_idle {i : Instr} {s : State} (h : s.busy = false) : serve i s = serveIdle i s := by
  rw [serve, drain_idle h]

/-- A request other than INIT and DETACH that passes its checks: the whole next state. -/
theorem serveIdle_plain {i : Instr} {s : State} (h : failedCheck s.lstate i = none)
    (hi : ∀ t : State, finalEffect i t = t) :
    serveIdle i s = { s with
      req := requestWord i, seqPc := BitVec.ofNat 8 (microProgram s.cfg i).length, dly := 0, busy := false
      err := .noError
      lines := replay s.lines (eventsOf (microProgram s.cfg i))
      trace := s.trace ++ eventsOf (microProgram s.cfg i) } := by
  rw [serveIdle_ran h, complete, hi, endRequest]

/-- A request leaves the Engine idle. -/
@[simp] theorem serveIdle_busy (i : Instr) (s : State) : (serveIdle i s).busy = false := by
  unfold serveIdle
  split <;> simp [complete]

theorem drain_busy (s : State) : (drain s).busy = false := by
  unfold drain
  split
  · simp only [completeCurrent]
    split <;> simp [complete]
  · rename_i h
    simpa using h

@[simp] theorem serve_busy (i : Instr) (s : State) : (serve i s).busy = false := serveIdle_busy ..

/-- Latching a request makes it the one that runs. -/
theorem running_accept {i : Instr} (h : i.isRequest = true) (s : State) :
    running (accept (requestWord i) s) = some i := by
  simp [running, Laws.RequestWord.all i h]

/-- What a decoded word is, and that it is a request. -/
theorem decodeRequest_isRequest {w : ReqWord} {i : Instr} (h : decodeRequest w = .ok i) : i.isRequest = true := by
  unfold decodeRequest at h
  split at h
  · cases h
  · split at h
    · cases h
    · split at h
      · cases h
        rename_i h
        unfold legalRequest at h
        split at h <;> simp at h <;> subst h <;> rfl
      · cases h

end Sys2Proof.Machine
end

