-- ==== Sys2Proof/Laws/Memory.lean ====
section
/-! SUPPORT. The laws of `BUF`: a read after a write, a write leaves every other index alone, and every operation
keeps the canonical form (20_memory.md R49). -/

namespace Sys2Proof.Machine

@[simp] theorem readCell_nil (i : Nat) : readCell [] i = unlisted := rfl

theorem readCell_cons (c : Host.Cell) (m : Memory) (i : Nat) :
    readCell (c :: m) i = if c.1 = i then c.2 else readCell m i := rfl

/-- An index below every listed one reads as unlisted. -/
theorem readCell_below {m : Memory} {i : Nat} (h : ∀ c ∈ m, i < c.1) : readCell m i = unlisted := by
  induction m with
  | nil => rfl
  | cons c m ih =>
    have hc := h c (by simp)
    rw [readCell_cons, if_neg (by omega)]
    exact ih fun d hd => h d (by simp [hd])

theorem readCell_consCell (i j : Nat) (b : Byte) {m : Memory} (h : readCell m i = unlisted) :
    readCell (consCell i b m) j = if i = j then b else readCell m j := by
  unfold consCell
  split <;> rename_i hb
  · split <;> rename_i hij
    · rw [← hij, h, hb]
    · rfl
  · rw [readCell_cons]

/-- A write sets its index and leaves every other index as it was. -/
theorem readCell_writeCell {m : Memory} (hw : m.Pairwise (fun a b => a.1 < b.1)) (i j : Nat) (b : Byte) :
    readCell (writeCell m i b) j = if i = j then b else readCell m j := by
  induction m with
  | nil => exact readCell_consCell i j b rfl
  | cons c m ih =>
    obtain ⟨hc, hm⟩ := List.pairwise_cons.1 hw
    unfold writeCell
    split <;> rename_i h1
    · refine readCell_consCell i j b (readCell_below fun d hd => ?_)
      rcases List.mem_cons.1 hd with rfl | hd
      · exact h1
      · exact lt_trans h1 (hc d hd)
    · split <;> rename_i h2
      · rw [readCell_consCell i j b (readCell_below fun d hd => h2 ▸ hc d hd), readCell_cons]
        simp only [h2]
        split <;> simp_all
      · rw [readCell_cons, readCell_cons, ih hm]
        split <;> rename_i h3
        · rw [if_neg (by omega)]
        · rfl

theorem mem_consCell {i : Nat} {b : Byte} {m : Memory} {c : Host.Cell} (h : c ∈ consCell i b m) :
    (c = (i, b) ∧ b ≠ unlisted) ∨ c ∈ m := by
  unfold consCell at h
  split at h
  · exact .inr h
  · rcases List.mem_cons.1 h with rfl | h
    · exact .inl ⟨rfl, ‹_›⟩
    · exact .inr h

/-- What a written memory lists: the new cell, or a cell that was there. -/
theorem mem_writeCell {m : Memory} {i : Nat} {b : Byte} {c : Host.Cell} (h : c ∈ writeCell m i b) :
    (c = (i, b) ∧ b ≠ unlisted) ∨ c ∈ m := by
  induction m with
  | nil => exact mem_consCell h
  | cons d m ih =>
    unfold writeCell at h
    split at h
    · exact mem_consCell h
    · split at h
      · exact (mem_consCell h).imp_right (List.mem_cons_of_mem _)
      · rcases List.mem_cons.1 h with rfl | h
        · exact .inr (by simp)
        · exact (ih h).imp_right (List.mem_cons_of_mem _)

theorem pairwise_consCell {i : Nat} {b : Byte} {m : Memory} (hm : m.Pairwise (fun a b => a.1 < b.1))
    (h : ∀ c ∈ m, i < c.1) : (consCell i b m).Pairwise (fun a b => a.1 < b.1) := by
  unfold consCell
  split
  · exact hm
  · exact List.pairwise_cons.2 ⟨h, hm⟩

theorem pairwise_writeCell {m : Memory} (hm : m.Pairwise (fun a b => a.1 < b.1)) (i : Nat) (b : Byte) :
    (writeCell m i b).Pairwise (fun a b => a.1 < b.1) := by
  induction m with
  | nil => exact pairwise_consCell .nil (by simp)
  | cons c m ih =>
    obtain ⟨hc, hm'⟩ := List.pairwise_cons.1 hm
    unfold writeCell
    split <;> rename_i h1
    · refine pairwise_consCell hm fun d hd => ?_
      rcases List.mem_cons.1 hd with rfl | hd
      · exact h1
      · exact lt_trans h1 (hc d hd)
    · split <;> rename_i h2
      · exact pairwise_consCell hm' fun d hd => h2 ▸ hc d hd
      · refine List.pairwise_cons.2 ⟨fun d hd => ?_, ih hm'⟩
        rcases mem_writeCell hd with ⟨rfl, -⟩ | hd
        · simp only; omega
        · exact hc d hd

/-- Writing inside the buffer keeps the canonical form. -/
theorem wf_writeCell {m : Memory} (h : m.wf) {i : Nat} (hi : i < capacity) (b : Byte) : (writeCell m i b).wf := by
  refine ⟨pairwise_writeCell h.1 i b, fun c hc => ?_⟩
  rcases mem_writeCell hc with ⟨rfl, hb⟩ | hc
  · exact ⟨hb, hi⟩
  · exact h.2 c hc

/-- `MemWrite` keeps the canonical form. -/
theorem memWrite_wf {m m' : Memory} {i : Nat} {b : Byte} (h : m.wf) (hw : memWrite m i b = .ok m') : m'.wf := by
  unfold memWrite at hw
  split at hw
  · cases hw; exact wf_writeCell h ‹_› b
  · cases hw

/-- The empty buffer of a new instance (R117) has the form. -/
theorem wf_nil : Memory.wf [] := ⟨.nil, by simp⟩

/-- Reading inside the buffer returns the bytes at the indices, in order. -/
theorem memReadFrom_ok {m : Memory} {i n : Nat} (h : i + n ≤ capacity) :
    memReadFrom m i n = .ok ((List.range n).map fun k => readCell m (i + k)) := by
  induction n generalizing i with
  | zero => rfl
  | succ n ih =>
    simp only [memReadFrom, memRead, if_pos (show i < capacity by omega), ih (show i + 1 + n ≤ capacity by omega)]
    simp [List.range_succ_eq_map, Function.comp_def, Nat.add_assoc, Nat.add_comm 1]

/-- A read that leaves the buffer is a fault. -/
theorem memReadFrom_fault {m : Memory} {i n : Nat} (hn : n ≠ 0) (h : capacity < i + n) :
    memReadFrom m i n = .error .bufIndex := by
  induction n generalizing i with
  | zero => exact absurd rfl hn
  | succ n ih =>
    by_cases hi : i < capacity
    · rcases Nat.eq_zero_or_pos n with rfl | h0
      · omega
      · simp [memReadFrom, memRead, hi, ih (i := i + 1) (by omega) (by omega)]
    · simp [memReadFrom, memRead, hi]

end Sys2Proof.Machine
end

