-- ==== Sys2Proof/Laws/Step.lean ====
section
/-! SUPPORT. What a tick and a step can do, each said once: the inversion lemmas the provers split on. -/

namespace Sys2Proof.Machine

/-! The pieces. -/

theorem finalEffect_cases (i : Instr) (s : State) :
    (i = .init ∧ finalEffect i s = becomeReady s) ∨ (i = .detach ∧ finalEffect i s = releaseLines s) ∨
      (i ≠ .init ∧ i ≠ .detach ∧ finalEffect i s = s) := by
  cases i <;> simp [finalEffect]

/-- Completion of the request in `REQ`, when it is known. -/
theorem completeCurrent_eq {s : State} {i : Instr} (h : running s = some i) : completeCurrent s = complete i s := by
  simp [completeCurrent, h]

theorem completeCurrent_none {s : State} (h : running s = none) : completeCurrent s = endRequest s := by
  simp [completeCurrent, h]

theorem currentProgram_eq {s : State} {i : Instr} (h : running s = some i) :
    currentProgram s = microProgram s.cfg i := by
  simp [currentProgram, h]

/-- One tick of the sequencer: a `Wait` counts down or ends, a `SetLine` is done, a `Wait` starts, or the request
completes. -/
theorem engineTick_cases (s : State) :
    (1 < s.dly ∧ engineTick s = { s with dly := s.dly - 1 }) ∨
    (s.dly = 1 ∧ engineTick s = endWait (waitEvents s) s) ∨
    (s.dly = 0 ∧ ∃ l v, (currentProgram s)[s.seqPc.toNat]? = some (.setLine l v) ∧
      engineTick s = advance (setLine l v s)) ∨
    (s.dly = 0 ∧ ∃ t, (currentProgram s)[s.seqPc.toNat]? = some (.wait t) ∧ ticksFor s.cfg t ≠ 0 ∧
      engineTick s = beginWait t s) ∨
    (s.dly = 0 ∧ ∃ t, (currentProgram s)[s.seqPc.toNat]? = some (.wait t) ∧ ticksFor s.cfg t = 0 ∧
      engineTick s = endWait [.wait t] (beginWait t s)) ∨
    (s.dly = 0 ∧ (currentProgram s)[s.seqPc.toNat]? = none ∧ engineTick s = completeCurrent s) := by
  by_cases h : s.dly = 0
  · rcases hp : (currentProgram s)[s.seqPc.toNat]? with _ | ⟨l, v⟩ | ⟨t⟩
    · simp [engineTick, h, hp]
    · exact .inr (.inr (.inl ⟨h, l, v, rfl, by simp [engineTick, h, hp]⟩))
    · by_cases ht : ticksFor s.cfg t = 0 <;> simp [engineTick, h, hp, startWait, ht]
  · rcases Nat.lt_or_ge 1 s.dly with h1 | h1
    · exact .inl ⟨h1, by simp [engineTick, h, waitTick, Nat.not_le.2 h1]⟩
    · exact .inr (.inl ⟨by omega, by simp [engineTick, h, waitTick, h1]⟩)

/-- The ACQ event, by its three outcomes (R110 to R112). -/
theorem takeAcq_cases (ok : Bool) (s : State) :
    (s.lstate ≠ .off ∧ takeAcq ok s = raiseError .alreadyAttached s) ∨
    (s.lstate = .off ∧ ok = true ∧ takeAcq ok s = acquire s) ∨
    (s.lstate = .off ∧ ok = false ∧ takeAcq ok s = raiseError .acquireFail s) := by
  by_cases h : s.lstate = .off <;> cases ok <;> simp [takeAcq, h]

theorem needsReady_cases (l : LState) :
    (l = .ready ∧ needsReady l = none) ∨ (l ≠ .ready ∧ needsReady l = some .notReady) := by
  cases l <;> simp [needsReady]

/-- A failed check has a cause (R145: code 0 is for success only). -/
theorem failedCheck_ne_noError {l : LState} {i : Instr} {c : Cause} (h : failedCheck l i = some c) : c ≠ .noError := by
  rintro rfl
  rcases needsReady_cases l with ⟨rfl, hn⟩ | ⟨hl, hn⟩ <;> cases i <;> simp_all [failedCheck]

/-- Acceptance at the port: started, or rejected at once. -/
theorem acceptPort_cases (s : State) :
    (∃ i, decodeRequest s.reqWord = .ok i ∧ failedCheck s.lstate i = none ∧
      acceptPort s = accept s.reqWord { s with reqValid := false }) ∨
    (∃ c, c ≠ .noError ∧ acceptPort s = raiseError c (accept s.reqWord { s with reqValid := false })) := by
  unfold acceptPort
  rcases hd : decodeRequest s.reqWord with r | i
  · refine .inr ⟨Reject.cause r, by cases r <;> simp [Reject.cause], rfl⟩
  · rcases ha : failedCheck s.lstate i with _ | c
    · exact .inl ⟨i, rfl, ha, by simp [ha]⟩
    · exact .inr ⟨c, failedCheck_ne_noError ha, by simp [ha]⟩

/-- The attach procedure: an ACQ, and on success the wait and the INIT that follow it (R114). -/
theorem attach_cases (ok : Bool) (s : State) :
    (s.lstate = .off ∧ ok = true ∧ attach ok s = { acquire s with
      hostWait := ticksFor s.cfg s.cfg.powerOn, inputs := .call (.request 0x3000#16) :: s.inputs }) ∨
    (¬(s.lstate = .off ∧ ok = true) ∧ attach ok s = takeAcq ok s) := by
  by_cases h : s.lstate = .off ∧ ok = true
  · obtain ⟨h, rfl⟩ := h
    exact .inl ⟨h, rfl, by simp [attach, takeAcq, h, requestWord]⟩
  · exact .inr ⟨h, by simp [attach, h]⟩

/-- A request's meaning is the synchronous call. -/
theorem exec_request {i : Instr} (h : i.isRequest = true) (s : State) : exec i s = .next (serve i s) := by
  cases i <;> first | rfl | cases h

/-- A call that answers a next state: an instruction ran, or a word that is no request was rejected. -/
theorem runCall_cases {c : Code} {s s' : State} (h : runCall c s = .next s') :
    (∃ i, decode s.cfg.hostCodes c = .ok i ∧ exec i s = .next s') ∨
    (∃ w r, c = .request w ∧ decodeRequest w = .error r ∧ s' = rejectWord w r s) := by
  unfold runCall at h
  split at h
  · exact .inl ⟨_, ‹_›, h⟩
  · split at h
    · cases h
      exact .inr ⟨_, _, rfl, ‹_›, rfl⟩
    · cases h

/-- The Engine idle, nothing on its ports, the host not waiting: here the host's next call, attach or wait begins. -/
def Quiet (s : State) : Prop := s.busy = false ∧ s.acq = none ∧ s.reqValid = false ∧ s.hostWait = 0

/-- Everything a step that answers a next state can have been. -/
theorem step_cases {s s' : State} (h : step s = .next s') :
    (∃ ok rest, s.inputs = .acq ok :: rest ∧ s.acq = none ∧ s' = { s with acq := some ok, inputs := rest }) ∨
    (∃ w rest, s.inputs = .present w :: rest ∧ s.reqValid = false ∧ s.hostWait = 0 ∧
      s' = { s with reqValid := true, reqWord := w, inputs := rest }) ∨
    (s.busy = true ∧ s' = engineTick s) ∨
    (∃ ok, s.busy = false ∧ s.acq = some ok ∧ s' = takeAcq ok { s with acq := none }) ∨
    (s.busy = false ∧ s.acq = none ∧ s.reqValid = true ∧ s' = acceptPort s) ∨
    (s.busy = false ∧ s.acq = none ∧ s.reqValid = false ∧ s.hostWait ≠ 0 ∧ s' = { s with hostWait := s.hostWait - 1 }) ∨
    (∃ c rest, Quiet s ∧ s.inputs = .call c :: rest ∧ runCall c { s with inputs := rest } = .next s') ∨
    (∃ ok rest, Quiet s ∧ s.inputs = .attach ok :: rest ∧ s' = attach ok { s with inputs := rest }) ∨
    (∃ t rest, Quiet s ∧ s.inputs = .wait t :: rest ∧
      s' = { s with hostWait := ticksFor s.cfg t, inputs := rest }) ∨
    (Quiet s ∧ s' = s) := by
  unfold step stepOnce at h
  split at h
  · rename_i t hd
    cases h
    unfold deliver at hd
    split at hd
    · split at hd
      · cases hd; exact .inl ⟨_, _, ‹_›, ‹_›, rfl⟩
      · cases hd
    · split at hd
      · rename_i hr
        cases hd; exact .inr (.inl ⟨_, _, ‹_›, hr.1, hr.2, rfl⟩)
      · cases hd
    all_goals cases hd
  · by_cases hb : s.busy = true
    · rw [if_pos hb] at h
      cases h
      exact .inr (.inr (.inl ⟨hb, rfl⟩))
    · rw [if_neg hb] at h
      have hb : s.busy = false := by simpa using hb
      split at h
      · cases h
        exact .inr (.inr (.inr (.inl ⟨_, hb, ‹_›, rfl⟩)))
      · split at h
        · cases h
          exact .inr (.inr (.inr (.inr (.inl ⟨hb, ‹_›, ‹_›, rfl⟩))))
        · rename_i ha hv
          have hv : s.reqValid = false := by simpa using hv
          split at h
          · cases h
            exact .inr (.inr (.inr (.inr (.inr (.inl ⟨hb, ha, hv, ‹_›, rfl⟩)))))
          · rename_i hw
            have hq : Quiet s := ⟨hb, ha, hv, by simpa using hw⟩
            unfold runInput at h
            split at h
            · exact .inr (.inr (.inr (.inr (.inr (.inr (.inl ⟨_, _, hq, ‹_›, h⟩))))))
            · cases h
              exact .inr (.inr (.inr (.inr (.inr (.inr (.inr (.inl ⟨_, _, hq, ‹_›, rfl⟩)))))))
            · cases h
              exact .inr (.inr (.inr (.inr (.inr (.inr (.inr (.inr (.inl ⟨_, _, hq, ‹_›, rfl⟩))))))))
            all_goals
              cases h
              exact .inr (.inr (.inr (.inr (.inr (.inr (.inr (.inr (.inr ⟨hq, rfl⟩))))))))

/-- The event of a running `Wait` is that of the micro-operation at `seq_pc`. -/
theorem waitEvents_eq {s : State} {t : Nat} (h : (currentProgram s)[s.seqPc.toNat]? = some (.wait t)) :
    waitEvents s = [.wait t] := by simp [waitEvents, h]

/-- The end of a `Wait` changes no level. -/
@[simp] theorem replay_waitEvents (L : Byte) (s : State) : replay L (waitEvents s) = L := by
  unfold waitEvents; split <;> rfl

/-- While the host waits, nothing but an ACQ event is delivered. -/
theorem deliver_waiting {s : State} (h : s.hostWait ≠ 0) (hn : ∀ ok rest, s.inputs ≠ .acq ok :: rest) :
    deliver s = none := by
  unfold deliver
  split
  · exact absurd ‹_› (hn _ _)
  · exact if_neg fun h' => h h'.2
  all_goals rfl

end Sys2Proof.Machine
end

