-- ==== Sys2Proof/Laws/HostLayer.lean ====
section
/-! SUPPORT. The host layer: the write path as a plan (the instance and the requests it comes to), which the loop of
43_host_layer.md R121 carries out. -/

namespace Sys2Proof.Machine

theorem finalEffect_withInst {i : Instr} (hi : i ≠ .detach) (h : DevInst) (s : State) :
    finalEffect i (withInst h s) = withInst h (finalEffect i s) := by
  cases i <;> first | rfl | exact absurd rfl hi

/-- The instance does not matter to a request that is not DETACH. -/
theorem serveIdle_withInst {i : Instr} (hi : i ≠ .detach) (h : DevInst) (s : State) :
    serveIdle i (withInst h s) = withInst h (serveIdle i s) := by
  rcases ha : failedCheck s.lstate i with _ | c
  · rw [serveIdle_ran ha, serveIdle_ran (s := withInst h s) ha]
    exact congrArg endRequest (finalEffect_withInst hi h { s with
      req := requestWord i, seqPc := BitVec.ofNat 8 (microProgram s.cfg i).length, dly := 0, busy := true
      lines := replay s.lines (eventsOf (microProgram s.cfg i))
      trace := s.trace ++ eventsOf (microProgram s.cfg i) })
  · rw [serveIdle_rejected ha, serveIdle_rejected (s := withInst h s) ha]
    rfl

/-- Requests one after another. -/
def serveAll (is : List Instr) (s : State) : State := is.foldl (fun t i => serve i t) s

@[simp] theorem serveAll_nil (s : State) : serveAll [] s = s := rfl

@[simp] theorem serveAll_cons (i : Instr) (is : List Instr) (s : State) :
    serveAll (i :: is) s = serveAll is (serve i s) := rfl

theorem serveAll_append (xs ys : List Instr) (s : State) : serveAll (xs ++ ys) s = serveAll ys (serveAll xs s) :=
  List.foldl_append ..

theorem serveAll_busy {is : List Instr} {s : State} (h : s.busy = false) : (serveAll is s).busy = false := by
  induction is generalizing s with
  | nil => exact h
  | cons i is ih => exact ih (serve_busy i s)

theorem serveAll_withInst {is : List Instr} (hi : .detach ∉ is) (h : DevInst) {s : State} (hb : s.busy = false) :
    serveAll is (withInst h s) = withInst h (serveAll is s) := by
  induction is generalizing s with
  | nil => rfl
  | cons i is ih =>
    simp only [List.mem_cons, not_or] at hi
    rw [serveAll_cons, serveAll_cons, serve_idle (by exact hb), serve_idle hb, serveIdle_withInst (Ne.symm hi.1),
      ih hi.2 (serveIdle_busy i s)]

/-- The requests of `SetRow(r)` (R120). -/
def setRowRequests (p : RowPolicy) (r : BitVec 6) : List Instr :=
  if r = 0#6 ∨ r = 1#6 then [.setCursorRow (r.setWidth 8)]
  else match p with
    | .clamp => [.setCursorRow 1#8]
    | .reject => []

theorem setRow_eq (r : BitVec 6) (s : State) : setRow r s = serveAll (setRowRequests s.cfg.rowOverflow r) s := by
  unfold setRow setRowRequests
  split
  · rfl
  · split <;> rename_i h <;> simp [h]

theorem detach_not_mem_setRowRequests (p : RowPolicy) (r : BitVec 6) : .detach ∉ setRowRequests p r := by
  unfold setRowRequests
  split
  · simp
  · split <;> simp

/-- What WRITE_VALUE comes to: the instance it leaves, the requests it issues, and whether bytes were left over. -/
structure WritePlan where
  inst : DevInst
  requests : List Instr
  full : Bool

/-- A plan with requests before it. -/
def WritePlan.after (is : List Instr) : Except Fault WritePlan → Except Fault WritePlan
  | .ok p => .ok { p with requests := is ++ p.requests }
  | .error f => .error f

/-- The plan of the write path (R121). -/
def writePlan (pol : RowPolicy) : List Byte → DevInst → Except Fault WritePlan
  | [], h => .ok ⟨h, [], false⟩
  | b :: bs, h =>
    if h.len = 32#6 then .ok ⟨h, [], true⟩
    else if b = newline then
      match appendByte b (nextRow h) with
      | .error f => .error f
      | .ok h' => WritePlan.after (setRowRequests pol h'.row) (writePlan pol bs h')
    else if softWraps h then
      match appendByte b (nextRow h) with
      | .error f => .error f
      | .ok h' => WritePlan.after (setRowRequests pol h'.row ++ [.writeByte .data b]) (writePlan pol bs h')
    else
      match appendByte b h with
      | .error f => .error f
      | .ok h' => WritePlan.after [.writeByte .data b] (writePlan pol bs h')

/-- One byte of the plan: the buffer is full, or the byte is stored behind the requests of its case (R122 to R125). -/
theorem writePlan_cons {pol : RowPolicy} {b : Byte} {bs : List Byte} {h : DevInst} {p : WritePlan}
    (hp : writePlan pol (b :: bs) h = .ok p) :
    (h.len = 32#6 ∧ p = ⟨h, [], true⟩) ∨
    (h.len ≠ 32#6 ∧ ∃ h₁ h' is q, appendByte b h₁ = .ok h' ∧ writePlan pol bs h' = .ok q ∧
      p = { q with requests := is ++ q.requests } ∧
      ((b = newline ∧ h₁ = nextRow h ∧ is = setRowRequests pol h'.row) ∨
        (b ≠ newline ∧ softWraps h = true ∧ h₁ = nextRow h ∧
          is = setRowRequests pol h'.row ++ [.writeByte .data b]) ∨
        (b ≠ newline ∧ softWraps h = false ∧ h₁ = h ∧ is = [.writeByte .data b]))) := by
  -- the plan of the rest, behind the requests of this byte
  have rest : ∀ (h₁ : DevInst) (is : DevInst → List Instr),
      (match appendByte b h₁ with
        | .error f => Except.error f
        | .ok h' => WritePlan.after (is h') (writePlan pol bs h')) = .ok p →
      ∃ h' q, appendByte b h₁ = .ok h' ∧ writePlan pol bs h' = .ok q ∧ p = { q with requests := is h' ++ q.requests } := by
    intro h₁ is he
    rcases ha : appendByte b h₁ with f | h' <;> rw [ha] at he
    · cases he
    · rcases hq : writePlan pol bs h' with f | q <;> simp only [hq, WritePlan.after] at he <;> cases he
      exact ⟨h', q, rfl, hq, rfl⟩
  unfold writePlan at hp
  split at hp
  · cases hp; exact .inl ⟨‹_›, rfl⟩
  · refine .inr ⟨‹_›, ?_⟩
    split at hp
    · obtain ⟨h', q, h1, h2, h3⟩ := rest _ (fun h' => setRowRequests pol h'.row) hp
      exact ⟨_, h', _, q, h1, h2, h3, .inl ⟨‹_›, rfl, rfl⟩⟩
    · split at hp
      · obtain ⟨h', q, h1, h2, h3⟩ := rest _ (fun h' => setRowRequests pol h'.row ++ [.writeByte .data b]) hp
        exact ⟨_, h', _, q, h1, h2, h3, .inr (.inl ⟨‹_›, ‹_›, rfl, rfl⟩)⟩
      · obtain ⟨h', q, h1, h2, h3⟩ := rest _ (fun _ => [.writeByte .data b]) hp
        exact ⟨_, h', _, q, h1, h2, h3, .inr (.inr ⟨‹_›, by simpa using ‹¬ softWraps h = true›, rfl, rfl⟩)⟩

theorem mem_setRowRequests {pol : RowPolicy} {r : BitVec 6} {i : Instr} (h : i ∈ setRowRequests pol r) :
    i = .setCursorRow 0#8 ∨ i = .setCursorRow 1#8 := by
  unfold setRowRequests at h
  split at h
  · rename_i hr
    rcases hr with rfl | rfl <;> simp_all
  · split at h <;> simp_all

/-- The requests WRITE_VALUE issues are characters and the two row commands (R119: none can be rejected in READY). -/
theorem writePlan_requests {pol : RowPolicy} {bs : List Byte} {h : DevInst} {p : WritePlan}
    (hp : writePlan pol bs h = .ok p) (i : Instr) (hi : i ∈ p.requests) :
    (∃ b, i = .writeByte .data b) ∨ i = .setCursorRow 0#8 ∨ i = .setCursorRow 1#8 := by
  induction bs generalizing h p with
  | nil => cases hp; simp at hi
  | cons b bs ih =>
    rcases writePlan_cons hp with ⟨-, rfl⟩ | ⟨-, h₁, h', is, q, -, hq, rfl, hc⟩
    · simp at hi
    · rcases List.mem_append.1 hi with hi | hi
      · rcases hc with ⟨-, -, rfl⟩ | ⟨-, -, -, rfl⟩ | ⟨-, -, -, rfl⟩
        · exact .inr (mem_setRowRequests hi)
        · rcases List.mem_append.1 hi with hi | hi
          · exact .inr (mem_setRowRequests hi)
          · exact .inl ⟨b, by simpa using hi⟩
        · exact .inl ⟨b, by simpa using hi⟩
      · exact ih hq hi

/-- Carrying a plan out. -/
def WritePlan.run (p : WritePlan) (s : State) : State :=
  let t := withInst p.inst (serveAll p.requests s)
  if p.full then emit (.host .bufferFull) t else t

/-- The parameters are left alone by requests. -/
@[simp] theorem serveIdle_cfg (i : Instr) (s : State) : (serveIdle i s).cfg = s.cfg := by
  rcases ha : failedCheck s.lstate i with _ | c
  · rw [serveIdle_ran ha, complete, endRequest_cfg]
    rcases finalEffect_cases i _ with ⟨-, h⟩ | ⟨-, h⟩ | ⟨-, -, h⟩ <;> rw [h] <;> rfl
  · rw [serveIdle_rejected ha]

theorem serveAll_cfg {is : List Instr} {s : State} (h : s.busy = false) : (serveAll is s).cfg = s.cfg := by
  induction is generalizing s with
  | nil => rfl
  | cons i is ih => rw [serveAll_cons, ih (serve_busy i s), serve_idle h, serveIdle_cfg]

/-- The write path carries its plan out. -/
theorem writeLoop_eq (bs : List Byte) (h : DevInst) {s : State} (hb : s.busy = false) :
    writeLoop bs h s =
      match writePlan s.cfg.rowOverflow bs h with
      | .ok p => .next (p.run s)
      | .error f => .fault f := by
  induction bs generalizing h s with
  | nil => rfl
  | cons b bs ih =>
    -- the rest of the loop after requests `is`, with the instance `h'` stored before them
    have key : ∀ (is : List Instr) (h' : DevInst) (t : State), .detach ∉ is → t = withInst h' (serveAll is s) →
        writeLoop bs h' t =
          match WritePlan.after is (writePlan s.cfg.rowOverflow bs h') with
          | .ok p => .next (p.run s)
          | .error f => .fault f := by
      rintro is h' t hd rfl
      rw [ih h' (by exact serveAll_busy hb)]
      simp only [withInst_cfg, serveAll_cfg hb]
      rcases hp : writePlan s.cfg.rowOverflow bs h' with f | p
      · rfl
      · have hr : .detach ∉ p.requests := fun hm => by
          rcases writePlan_requests hp _ hm with ⟨_, h⟩ | h | h <;> cases h
        simp only [WritePlan.after, WritePlan.run, serveAll_append]
        rw [serveAll_withInst hr h' (serveAll_busy hb)]
        rfl
    have hs : ∀ (h' : DevInst) (is : List Instr), .detach ∉ is →
        serveAll is (withInst h' s) = withInst h' (serveAll is s) := fun h' is hd => serveAll_withInst hd h' hb
    simp only [writeLoop, writePlan]
    split
    · rfl
    · split
      · rcases appendByte b (nextRow h) with f | h'
        · rfl
        · exact key _ h' _ (detach_not_mem_setRowRequests _ _)
            (by rw [setRow_eq]; exact hs h' _ (detach_not_mem_setRowRequests _ _))
      · split
        · rcases appendByte b (nextRow h) with f | h'
          · rfl
          · refine key _ h' _ (by simp [detach_not_mem_setRowRequests]) ?_
            rw [setRow_eq, withInst_cfg, hs _ _ (detach_not_mem_setRowRequests _ _), serveAll_append]
            exact serveAll_withInst (is := [.writeByte .data b]) (by simp) h'
              (s := serveAll (setRowRequests s.cfg.rowOverflow h'.row) s) (serveAll_busy hb)
        · rcases appendByte b h with f | h'
          · rfl
          · exact key [.writeByte .data b] h' _ (by simp) (hs h' [.writeByte .data b] (by simp))

/-- A host command on an idle Engine with an instance. -/
theorem dispatch_some {k : DevInst → State → Host.Outcome State Fault Refusal} {s : State} {h : DevInst}
    (hb : s.busy = false) (hh : s.host = some h) : dispatch k s = k h s := by
  simp [dispatch, drain_idle hb, hh]

/-- A host command on an idle Engine without one (R143). -/
theorem dispatch_none {k : DevInst → State → Host.Outcome State Fault Refusal} {s : State}
    (hb : s.busy = false) (hh : s.host = none) : dispatch k s = .refused .noInstance := by
  simp [dispatch, drain_idle hb, hh]

/-- A byte stored at `LEN` (R121): where the index is in the buffer, `LEN` counts it, it is read back, and no other
index changes. -/
theorem appendByte_ok {b : Byte} {h : DevInst} (hl : h.len.toNat < 32) :
    appendByte b h = .ok { h with buf := writeCell h.buf h.len.toNat b, len := h.len + 1#6 } := by
  simp [appendByte, memWrite, capacity, hl]

theorem appendByte_fault {b : Byte} {h : DevInst} (hl : 32 ≤ h.len.toNat) : appendByte b h = .error .bufIndex := by
  simp [appendByte, memWrite, capacity, Nat.not_lt.2 hl]

end Sys2Proof.Machine
end

