-- ==== Sys2Proof/Machine/Assembler.lean ====
section
/-! DEFINITION. The assembler's request lines and pseudo-instructions (30_encoding.md R76, R77), as trees: a number
is a `Nat`, and one out of its field's range is refused. -/

namespace Sys2Proof.Machine

/-- One line of R76, or a pseudo-instruction of R77. -/
inductive Asm
  | writeNibble (rs : RegSel) (n : Nat)
  | writeByte (rs : RegSel) (b : Nat)
  | init
  | clearScreen
  | cursorReturn
  | shift (tgt : ShiftTarget) (dir : ShiftDir)
  | setCursorRow (r : Nat)
  | setBacklight (on : Bool)
  | detach
  /-- `.word w`: any 16-bit word, reserved encodings included. -/
  | word (w : Nat)
  /-- `CMD b` (R77). -/
  | cmd (b : Nat)
  /-- `CHAR b` (R77). -/
  | char (b : Nat)
  /-- `BL_ON` (R77). -/
  | blOn
  /-- `BL_OFF` (R77). -/
  | blOff
  /-- `HOME` (R77). -/
  | home
  /-- `CLS` (R77). -/
  | cls
  /-- `ROW0` (R77). -/
  | row0
  /-- `ROW1` (R77). -/
  | row1
  deriving DecidableEq, Repr

/-- R77: a pseudo-instruction's expansion; every other line stands for itself. -/
def expand : Asm → Asm
  | .cmd b => .writeByte .cmd b
  | .char b => .writeByte .data b
  | .blOn => .setBacklight true
  | .blOff => .setBacklight false
  | .home => .cursorReturn
  | .cls => .clearScreen
  | .row0 => .setCursorRow 0
  | .row1 => .setCursorRow 1
  | a => a

/-- R76: the word of a line; `none` where the assembler refuses a value out of its field's range. -/
def assemble (a : Asm) : Option ReqWord :=
  match expand a with
  | .writeNibble rs n => if n < 16 then some (requestWord (.writeNibble rs (BitVec.ofNat 4 n))) else none
  | .writeByte rs b => if b < 256 then some (requestWord (.writeByte rs (BitVec.ofNat 8 b))) else none
  | .init => some (requestWord .init)
  | .clearScreen => some (requestWord .clearScreen)
  | .cursorReturn => some (requestWord .cursorReturn)
  | .shift tgt dir => some (requestWord (.shift tgt dir))
  | .setCursorRow r => if r < 256 then some (requestWord (.setCursorRow (BitVec.ofNat 8 r))) else none
  | .setBacklight on => some (requestWord (.setBacklight on))
  | .detach => some (requestWord .detach)
  | .word w => if w < 65536 then some (BitVec.ofNat 16 w) else none
  | .cmd _ | .char _ | .blOn | .blOff | .home | .cls | .row0 | .row1 => none

end Sys2Proof.Machine
end

