-- ==== Sys2Proof/Tests/Slice0.lean ====
section
/-! SUPPORT. Tests of one step each, with their expected values from 95_test_vectors.md (the vector's name stands
beside each) or worked out from the rules, and a witness for the hypotheses of every statement. -/

namespace Sys2Proof.Tests

open Sys2Proof Sys2Proof.Machine Sys2Proof.Claims

/-! ## Helpers -/

/-- The next state of an outcome. -/
def nextOf : Host.Outcome State Fault Refusal → Option State
  | .next t => some t
  | .fault _ | .refused _ => none

/-- A field of the next state. -/
def after {α : Type} (f : State → α) (o : Host.Outcome State Fault Refusal) : Option α := (nextOf o).map f

theorem next_of_isSome {o : Host.Outcome State Fault Refusal} (h : (nextOf o).isSome = true) : ∃ t, o = .next t := by
  cases o with
  | next t => exact ⟨t, rfl⟩
  | fault r => cases h
  | refused r => cases h

/-- READY0 of 95_test_vectors.md: `LSTATE` = READY, `LINES` = 0xF0, a fresh instance. The trace is shortened to one
event that leaves those lines. -/
def ready0 : State :=
  { State.reset with lstate := .ready, lines := 0xF0#8, trace := [.acquire 0xF0#8], host := some .fresh }

/-- READY1: READY0 with the backlight on. -/
def ready1 : State := { ready0 with lines := 0xF8#8, trace := [.acquire 0xF8#8] }

/-- UNINIT0: after a successful ACQ. -/
def uninit0 : State := { State.reset with lstate := .uninit, trace := [.acquire 0x00#8], host := some .fresh }

/-- An instance with `LEN` bytes 0x00 in it, on row 1. -/
def filled (len : BitVec 6) : DevInst := ⟨[], len, 1#6, 0#5⟩

/-- READY0 with another instance. -/
def readyWith (h : DevInst) : State := { ready0 with host := some h }

/-- READY0 with the host's call `c` next. -/
def calling (c : Code) (s : State) : State := { s with inputs := [.call c] }

/-- READY0 with a word on the port. -/
def porting (w : ReqWord) (s : State) : State := { s with reqValid := true, reqWord := w }

/-- WRITE_NIBBLE CMD, 0 running: EN is high, the wait of 1 µs is next (R81, R89). -/
def enHigh : State :=
  { ready0 with
    busy := true, req := 0x1000#16, seqPc := 6#8, lines := 0x04#8
    trace := [.acquire 0x00#8, .set .en true] }

/-- A letter's byte. -/
def ch (c : Char) : Byte := BitVec.ofNat 8 c.toNat

/-! ## Well-formedness -/

/-- R72, R134: code 0x05 is SHIFT's, so no unrecognized command has it. -/
theorem test_wf_refuses_assigned_code : ¬ Instr.wf .placeholder (.hostUnrecognized 0x05#8 []) := by decide

theorem test_wf_accepts_unassigned_code : Instr.wf .placeholder (.hostUnrecognized 0x07#8 [0x01#8]) := by decide

/-- A map that gives two commands one code is refused (90_conflicts.md C1). -/
theorem test_wf_refuses_shared_code : ¬ HostCodeMap.wf { HostCodeMap.placeholder with backlightOff := 0x03#8 } := by
  decide

theorem test_wf_accepts_placeholder : HostCodeMap.wf .placeholder := by decide

/-- I13: a tick has a positive length. -/
theorem test_wf_refuses_zero_tick : ¬ Config.wf { Config.default with tickNum := 0 } := by decide

theorem test_wf_refuses_zero_denominator : ¬ Config.wf { Config.default with tickDen := 0 } := by decide

theorem test_wf_refuses_bad_map :
    ¬ Config.wf { Config.default with hostCodes := { HostCodeMap.placeholder with shift := 0x00#8 } } := by decide

theorem test_wf_accepts_default : Config.wf .default := by decide

/-! ## Decoding: one word of each row, written from R57 to R66 and R72 -/

-- OP 0001, RSV 000, RS 1, OPD 0000 0101
theorem test_decode_writeNibble : decodeTableWord 16 0b0001000100000101 = some (.writeNibble .data 0x5#4) := by
  decide

-- OP 0010, RSV 000, RS 0, OPD 1010 0001
theorem test_decode_writeByte : decodeTableWord 16 0b0010000010100001 = some (.writeByte .cmd 0xA1#8) := by decide

theorem test_decode_init : decodeTableWord 16 0b0011000000000000 = some .init := by decide

theorem test_decode_clearScreen : decodeTableWord 16 0b0100000000000000 = some .clearScreen := by decide

theorem test_decode_cursorReturn : decodeTableWord 16 0b0101000000000000 = some .cursorReturn := by decide

-- OPD bit 1 target, bit 0 direction
theorem test_decode_shift : decodeTableWord 16 0b0110000000000001 = some (.shift .cursor .right) := by decide

theorem test_decode_setCursorRow : decodeTableWord 16 0b0111000011111110 = some (.setCursorRow 0xFE#8) := by decide

theorem test_decode_setBacklight : decodeTableWord 16 0b1000000000000001 = some (.setBacklight true) := by decide

theorem test_decode_detach : decodeTableWord 16 0b1001000000000000 = some .detach := by decide

theorem test_decode_writeValue :
    decode .placeholder (.command 0x00#8 [0x48#8, 0x69#8]) = .ok (.writeValue [0x48#8, 0x69#8]) := by decide

theorem test_decode_readValue : decodeTableWord 8 0b00000001 = some .readValue := by decide

theorem test_decode_hostClearScreen : decodeTableWord 8 0b00000010 = some .hostClearScreen := by decide

theorem test_decode_backlightOn : decodeTableWord 8 0b00000011 = some .backlightOn := by decide

theorem test_decode_backlightOff : decodeTableWord 8 0b00000100 = some .backlightOff := by decide

theorem test_decode_hostShift :
    decode .placeholder (.command 0x05#8 [0b00000010#8]) = .ok (.hostShift .display .left) := by decide

theorem test_decode_hostCursorReturn : decodeTableWord 8 0b00000110 = some .hostCursorReturn := by decide

theorem test_decode_hostUnrecognized : decodeTableWord 8 0b11111111 = some (.hostUnrecognized 0xFF#8 []) := by decide

/-- V-E5, V-E6, V-E14, V-E22, V-I5, V-X9: a 1 in a reserved bit. -/
theorem test_decode_reserved_fields :
    [0x1010#16, 0x1200#16, 0x4001#16, 0x6100#16, 0x3001#16, 0x7100#16, 0x7E05#16].map decodeRequest
      = List.replicate 7 (.error .reservedField) := by decide

/-- V-X1 to V-X4: a reserved opcode. -/
theorem test_decode_reserved_opcodes :
    [0x0000#16, 0xA000#16, 0xFFFF#16, 0xB123#16].map decodeRequest = List.replicate 4 (.error .reservedOpcode) := by
  decide

/-- R76, R77: the example lines of the assembler. -/
theorem test_assemble :
    [Asm.writeNibble .cmd 3, .char 0x48, .shift .display .right, .row1, .blOn, .word 0xA000, .writeNibble .cmd 16,
      .setCursorRow 256, .word 65536].map assemble
      = [some 0x1003#16, some 0x2148#16, some 0x6003#16, some 0x7001#16, some 0x8001#16, some 0xA000#16, none, none,
        none] := by decide

/-! ## One step of each instruction -/

/-- V-E2. -/
theorem test_writeNibble : after State.lines (exec (.writeNibble .data 0x5#4) ready0) = some 0x51#8 := by
  decide +kernel

/-- R92's example: the events of WRITE_NIBBLE CMD, 0x3. -/
theorem test_writeNibble_events :
    after (fun t => t.trace.drop 1) (exec (.writeNibble .cmd 0x3#4) ready0)
      = some [.set .rs false, .set .d4 true, .set .d5 true, .set .d6 false, .set .d7 false, .set .en true, .wait 1,
        .set .en false, .wait 50] := by decide +kernel

/-- V-E8: BL stays. -/
theorem test_writeByte :
    after (fun t => (t.lines, t.status, t.seqPc)) (exec (.writeByte .data 0x48#8) ready1)
      = some (0x89#8, 0x0004#16, 18#8) := by decide +kernel

/-- V-E7: the latch events. -/
theorem test_writeByte_latches :
    after State.latches (exec (.writeByte .data 0x48#8) ready0) = some [⟨true, 0x4#4⟩, ⟨true, 0x8#4⟩] := by
  decide +kernel

/-- V-I1. -/
theorem test_init :
    after (fun t => (t.lines, t.status, t.seqPc)) (exec .init uninit0) = some (0xF0#8, 0x0004#16, 148#8) := by
  decide +kernel

/-- V-I3. -/
theorem test_init_twice : after (fun t => (t.lines, t.status)) (exec .init ready0) = some (0xF0#8, 0x004C#16) := by
  decide +kernel

/-- V-E13: the settle wait comes last. -/
theorem test_clearScreen :
    after (fun t => (t.lines, t.trace.getLast?)) (exec .clearScreen ready0) = some (0x10#8, some (.wait 2000)) := by
  decide +kernel

/-- V-E16. -/
theorem test_cursorReturn : after State.lines (exec .cursorReturn ready1) = some 0x28#8 := by decide +kernel

/-- V-E18. -/
theorem test_shift_cursor_right : after State.lines (exec (.shift .cursor .right) ready0) = some 0x40#8 := by
  decide +kernel

/-- V-E19. -/
theorem test_shift_display_left :
    after State.latches (exec (.shift .display .left) ready0) = some [⟨false, 0x1#4⟩, ⟨false, 0x8#4⟩] := by
  decide +kernel

/-- V-E24. -/
theorem test_setCursorRow :
    after State.latches (exec (.setCursorRow 1#8) ready0) = some [⟨false, 0xC#4⟩, ⟨false, 0x0#4⟩] := by
  decide +kernel

/-- V-E26. -/
theorem test_setCursorRow_range :
    after (fun t => (t.lines, t.status, t.diag)) (exec (.setCursorRow 255#8) ready0)
      = some (0xF0#8, 0x007C#16, [.engine .rowRange]) := by decide +kernel

/-- V-E27. -/
theorem test_setBacklight : after State.lines (exec (.setBacklight true) ready0) = some 0xF8#8 := by decide +kernel

/-- V-E28. -/
theorem test_setBacklight_off : after State.lines (exec (.setBacklight false) ready1) = some 0xF0#8 := by
  decide +kernel

/-- V-A6's DETACH. -/
theorem test_detach :
    after (fun t => (t.lines, t.status, t.seqPc, t.inst, t.trace.getLast?)) (exec .detach ready1)
      = some (0x10#8, 0x0000#16, 20#8, false, some .release) := by decide +kernel

/-- V-A9. -/
theorem test_detach_off : after State.status (exec .detach State.reset) = some 0x0038#16 := by decide +kernel

/-- V-H9: the newline at `LEN` = 16 moves the row, so no soft wrap follows. -/
theorem test_writeValue_newline :
    after (fun t => (t.lines, t.host.map DevInst.len, t.host.map DevInst.row))
        (exec (.writeValue ("ABCDEFGHIJKLMNOP\nX".toList.map ch)) ready0)
      = some (0x81#8, some 18#6, some 1#6) := by decide +kernel

/-- V-H12's second call: the newline at `LEN` = 31 is stored, then the buffer is full. -/
theorem test_writeValue_full :
    after (fun t => (t.host.map DevInst.len, t.host.map DevInst.row, t.diag, t.trace))
        (exec (.writeValue [0x0A#8, 0x41#8]) (readyWith (filled 31#6)))
      = some (some 32#6, some 2#6, [.host .bufferFull], [.acquire 0xF0#8]) := by decide +kernel

/-- R128: two bytes in the buffer, one of them 0x00. -/
theorem test_readValue :
    after State.replies (exec .readValue (readyWith ⟨[(0, 0x48#8)], 2#6, 0#6, 0#5⟩)) = some [⟨2#6, [0x48#8, 0x00#8]⟩]
    := by decide +kernel

/-- V-H15. -/
theorem test_hostClearScreen :
    after (fun t => (t.host, t.lines)) (exec .hostClearScreen (readyWith ⟨[(0, 0x48#8), (1, 0x69#8)], 2#6, 0#6, 0#5⟩))
      = some (some .fresh, 0x10#8) := by decide +kernel

/-- V-H20. -/
theorem test_backlightOn : after State.lines (exec .backlightOn ready0) = some 0xF8#8 := by decide +kernel

/-- V-H20. -/
theorem test_backlightOff : after State.lines (exec .backlightOff ready1) = some 0xF0#8 := by decide +kernel

/-- V-H21. -/
theorem test_hostShift : after State.lines (exec (.hostShift .display .right) ready0) = some 0xC0#8 := by
  decide +kernel

/-- V-H16's CURSOR_RETURN: `ROW` and `LEN` do not follow. -/
theorem test_hostCursorReturn :
    after (fun t => (t.req, t.host)) (exec .hostCursorReturn (readyWith (filled 20#6)))
      = some (0x5000#16, some (filled 20#6)) := by decide +kernel

/-- V-H24. -/
theorem test_hostUnrecognized :
    after (fun t => (t.diag, t.lines, t.host)) (exec (.hostUnrecognized 0x07#8 [1#8]) ready0)
      = some ([.host .unrecognizedCommand], 0xF0#8, some .fresh) := by decide +kernel

/-- V-X13: ACQ first; the request waits on the port. -/
theorem test_acq_first :
    after (fun t => (t.status, t.reqValid, t.acq)) (step { porting 0x3000#16 State.reset with acq := some true })
      = some (0x0002#16, true, none) := by decide +kernel

/-- V-L5: 5 ms with a tick of 1 µs is 5000 ticks. -/
theorem test_wait_ticks : ticksFor .default 5000 = 5000 := by decide

/-- R80: the least number of ticks that is not too short: ceil(50 / 1.5) = 34. -/
theorem test_wait_ticks_round_up : ticksFor { Config.default with tickNum := 3, tickDen := 2 } 50 = 34 := by decide

/-- I9: a field of an absent instance. -/
theorem test_hostRead_fault : hostRead DevInst.len State.reset = .error .noField := by rfl

/-- The first word after reset runs: WRITE_BYTE before ACQ is NOT_READY (P5's first line). -/
theorem test_first_word : after State.status (step (State.reset.withFetchWord 16 0x2141)) = some 0x0038#16 := by
  decide +kernel

/-- The first host command after reset runs: READ_VALUE of a fresh instance (V-H25). -/
theorem test_first_host_command : after State.replies (step (State.reset.withFetchWord 8 1)) = some [⟨0#6, []⟩] := by
  decide +kernel

/-! ## Witnesses for the hypotheses of the statements -/

theorem wf_filled {len : BitVec 6} (h1 : 0 < len.toNat) (h2 : len.toNat ≤ 32) : (filled len).Wf :=
  ⟨wf_nil, h2, fun _ _ => rfl, h1, fun h => absurd (show 1#6 = 0#6 from h) (by decide), rfl⟩

theorem wf_fresh : DevInst.fresh.Wf :=
  ⟨wf_nil, by decide, fun _ _ => rfl, by decide, fun _ => by decide, rfl⟩

/-- An idle state with a fresh instance, or none, whose lines are what its trace says. -/
theorem inv_of_idle {s : State} (hb : s.busy = false) (hh : s.host = none ∨ s.host = some .fresh)
    (h1 : s.inst = s.oe) (h2 : level s.lines .rw = false) (h3 : s.err = .noError) (h4 : replay 0x00#8 s.trace = s.lines)
    (h5 : level s.lines .en = false) (hv : s.reqValid = false) : s.Inv where
  host_wf h e := by
    rcases hh with hh | hh <;> rw [hh] at e <;> cases e
    exact wf_fresh
  inst_oe := h1
  rw_low := h2
  err_sticky h := absurd h3 h
  replayed := h4
  idle_en _ := h5
  busy_runs h := by rw [hb] at h; cases h
  wait_quiet _ := ⟨hb, hv⟩

theorem inv_ready0 : ready0.Inv := inv_of_idle rfl (.inr rfl) rfl rfl rfl rfl rfl rfl

theorem inv_enHigh : enHigh.Inv where
  host_wf h e := by cases e; exact wf_fresh
  inst_oe := rfl
  rw_low := rfl
  err_sticky h := absurd rfl h
  replayed := rfl
  idle_en h := by cases h
  busy_runs _ := ⟨.writeNibble .cmd 0#4, ⟨rfl, rfl, by decide, rfl, fun h => absurd rfl h⟩⟩
  wait_quiet h := absurd rfl h

theorem witness_DecodeOfEncode :
    HostCodeMap.wf .placeholder ∧ Instr.wf .placeholder (.hostUnrecognized 0xFF#8 [0x00#8]) ∧
      Instr.wf .placeholder (.setCursorRow 255#8) := by decide

theorem witness_EncodeOfDecode :
    decode .placeholder (.request 0x70FF#16) = .ok (.setCursorRow 255#8) ∧
      decode .placeholder (.command 0x05#8 [0x03#8]) = .ok (.hostShift .display .right) := by decide

/-- A word of each clause, at the ends of its range. -/
theorem witness_RequestDecoding :
    opOf 0x0FFF#16 = 0 ∧ 0xA ≤ opOf 0xA000#16 ∧ 0xA ≤ opOf 0xFFFF#16 ∧
      (opOf 0x1010#16 ≠ 0 ∧ opOf 0x9001#16 < 0xA ∧ 0x9001#16 &&& maskOfR66 (opOf 0x9001#16) ≠ 0#16) ∧
      (opOf 0x1000#16 ≠ 0 ∧ opOf 0x9000#16 < 0xA ∧ 0x9000#16 &&& maskOfR66 (opOf 0x9000#16) = 0#16) := by decide

theorem atCall_calling (c : Code) : AtCall (calling c ready0) c [] := ⟨rfl, rfl, rfl, rfl, rfl⟩

theorem witness_StepRunsTheDecodedCall :
    AtCall (calling (.request 0x2148#16) ready0) (.request 0x2148#16) [] ∧
      decode ready0.cfg.hostCodes (.request 0x2148#16) = .ok (.writeByte .data 0x48#8) :=
  ⟨atCall_calling _, by decide⟩

/-- Both lengths of a table row, 8 bits and more. -/
theorem witness_PlacedWordRunsNext :
    decode State.reset.cfg.hostCodes (codeOfTableWord State.reset.cfg.hostCodes 8 6) = .ok .hostCursorReturn ∧
      decode State.reset.cfg.hostCodes (codeOfTableWord State.reset.cfg.hostCodes 9 0x3000) = .ok .init := by decide

theorem witness_ReservedOpcode :
    AtCall (calling (.request 0xA000#16) ready0) (.request 0xA000#16) [] ∧ 0xA ≤ opOf 0xA000#16 ∧
      AtPort (porting 0x0000#16 ready0) ∧ opOf 0x0000#16 = 0 :=
  ⟨atCall_calling _, by decide, ⟨rfl, rfl, rfl, rfl⟩, by decide⟩

theorem witness_ReservedField :
    AtCall (calling (.request 0x9001#16) ready0) (.request 0x9001#16) [] ∧
      (opOf 0x9001#16 ≠ 0 ∧ opOf 0x9001#16 < 0xA ∧ 0x9001#16 &&& maskOfR66 (opOf 0x9001#16) ≠ 0#16) ∧
      AtPort (porting 0x1010#16 ready0) ∧
      (opOf 0x1010#16 ≠ 0 ∧ opOf 0x1010#16 < 0xA ∧ 0x1010#16 &&& maskOfR66 (opOf 0x1010#16) ≠ 0#16) :=
  ⟨atCall_calling _, by decide, ⟨rfl, rfl, rfl, rfl⟩, by decide⟩

/-- Each shape of a malformed payload: one where none belongs, none where SHIFT needs one, and bits 7:2 not 0. -/
theorem witness_MalformedPayload :
    AtCall (calling (.command 0x05#8 [4#8]) ready0) (.command 0x05#8 [4#8]) [] ∧
      ready0.cfg.hostCodes = .placeholder ∧ (0x01#8 ∈ [0x01#8, 0x02#8, 0x03#8, 0x04#8, 0x06#8] ∧ [0#8] ≠ []) ∧
      (∀ b : Byte, [] = [b] → 4 ≤ b.toNat) ∧ (∀ b, [4#8] = [b] → 4 ≤ b.toNat) :=
  ⟨atCall_calling _, rfl, by decide, by simp, by simp⟩

theorem witness_AcqGoesBeforeARequest :
    let s := { porting 0x3000#16 State.reset with acq := some true }
    s.busy = false ∧ s.acq = some true ∧ s.reqValid = true ∧ deliver s = none := by decide

theorem witness_BusyEngineTakesNothing :
    let s := { porting 0x3000#16 enHigh with acq := some true }
    s.busy = true ∧ s.reqValid = true ∧ deliver s = none := by decide

theorem witness_PortAcceptance :
    AtPort (porting 0x4000#16 ready0) ∧ decodeRequest (porting 0x4000#16 ready0).reqWord = .ok .clearScreen ∧
      failedCheck ready0.lstate .clearScreen = none := ⟨⟨rfl, rfl, rfl, rfl⟩, by decide, rfl⟩

theorem witness_Idle :
    State.reset.busy = false ∧ State.reset.acq = none ∧ State.reset.reqValid = false ∧ State.reset.hostWait = 0 ∧
      State.reset.inputs = [] := by decide

theorem witness_PortRun :
    (porting 0x4000#16 ready0).busy = false ∧ (porting 0x4000#16 ready0).acq = none ∧
      (porting 0x4000#16 ready0).reqValid = true ∧ (porting 0x4000#16 ready0).inputs = [] := by decide

theorem witness_RunningRequest : enHigh.busy = true ∧ enHigh.inputs = [] := by decide

theorem witness_SetLineTick :
    let s := { enHigh with seqPc := 5#8 }
    s.busy = true ∧ s.inputs = [] ∧ s.dly = 0 ∧ decodeRequest s.req = .ok (.writeNibble .cmd 0#4) ∧
      (microProgram s.cfg (.writeNibble .cmd 0#4))[s.seqPc.toNat]? = some (.setLine .en true) := by decide

theorem witness_WaitHolds :
    enHigh.busy = true ∧ enHigh.inputs = [] ∧ enHigh.dly = 0 ∧ enHigh.cfg.wf ∧
      decodeRequest enHigh.req = .ok (.writeNibble .cmd 0#4) ∧
      (microProgram enHigh.cfg (.writeNibble .cmd 0#4))[enHigh.seqPc.toNat]? = some (.wait 1) := by decide

/-- A state that meets the invariant, and its step. -/
theorem witness_InvStep : ready0.Inv ∧ step ready0 = .next ready0 ∧ ready0.oe = true := ⟨inv_ready0, rfl, rfl⟩

theorem witness_SampledLines :
    enHigh.Inv ∧ level enHigh.lines .en = true ∧ ∃ t, step enHigh = .next t :=
  ⟨inv_enHigh, rfl, next_of_isSome (by decide +kernel)⟩

theorem witness_Backlight :
    .setLine .bl true ∈ microProgram .default (.setBacklight true) ∧
      .setLine .bl false ∈ microProgram .default .detach ∧ Instr.isRequest .init = true ∧ ready0.busy = false ∧
      (∀ v, Instr.init ≠ .setBacklight v) ∧ Instr.init ≠ .detach := by
  refine ⟨by decide, by decide, rfl, rfl, fun v => by simp, by simp⟩

/-- A step of each kind that changes BL: ACQ, a tick, a call. -/
theorem witness_BacklightSteps :
    after (fun t => level t.lines .bl)
        (step { State.reset with cfg := { Config.default with blResetLevel := true }, acq := some true }) = some true ∧
      level State.reset.lines .bl = false ∧
      after (fun t => level t.lines .bl) (step { ready0 with busy := true, req := 0x8001#16 }) = some true ∧
      after (fun t => level t.lines .bl) (step (calling (.command 0x03#8 []) ready0)) = some true ∧
      level ready0.lines .bl = false := by decide +kernel

/-- Both legal rows. -/
theorem witness_RequestCosts : (0#8).toNat < 2 ∧ (1#8).toNat < 2 := by decide

theorem witness_Rejected :
    Instr.isRequest (.setCursorRow 2#8) = true ∧ ready0.busy = false ∧
      failedCheck ready0.lstate (.setCursorRow 2#8) = some .rowRange := by decide

theorem serving_ready0 : Serving ready0 := ⟨rfl, rfl⟩

/-- READY with an instance, at `LEN` = 0, 31 and 32; it meets the premises of every statement on a host command. -/
theorem witness_Attached :
    (Attached ready0 .fresh ∧ DevInst.fresh.Wf) ∧
      (Attached (readyWith (filled 31#6)) (filled 31#6) ∧ (filled 31#6).Wf) ∧
      (Attached (readyWith (filled 32#6)) (filled 32#6) ∧ (filled 32#6).Wf) :=
  ⟨⟨⟨serving_ready0, rfl⟩, wf_fresh⟩, ⟨⟨serving_ready0, rfl⟩, wf_filled (by decide) (by decide)⟩,
    ⟨⟨serving_ready0, rfl⟩, wf_filled (by decide) (by decide)⟩⟩

theorem witness_RowOfTwoOrMore : Serving ready0 ∧ 2 ≤ (2#8).toNat ∧ 2 ≤ (255#8).toNat :=
  ⟨serving_ready0, by decide, by decide⟩

theorem witness_ShiftMapping :
    Serving ready0 ∧ (ShiftTarget.cursor, ShiftDir.left, 0x6000#16, 0x10#8) ∈
      [(ShiftTarget.display, ShiftDir.right, 0x6003#16, 0x1C#8), (.display, .left, 0x6002#16, 0x18#8),
        (.cursor, .right, 0x6001#16, 0x14#8), (.cursor, .left, 0x6000#16, 0x10#8)] :=
  ⟨serving_ready0, by decide⟩

/-- OFF and UNINIT. -/
theorem witness_OutsideReady :
    Instr.isRequest (.setCursorRow 2#8) = true ∧ Instr.setCursorRow 2#8 ≠ .init ∧ State.reset.busy = false ∧
      State.reset.lstate ≠ .ready ∧ uninit0.busy = false ∧ uninit0.lstate ≠ .ready := by decide

theorem witness_Init : uninit0.busy = false ∧ uninit0.lstate = .uninit := by decide

/-- OFF and READY. -/
theorem witness_InitOutsideUninit :
    State.reset.busy = false ∧ State.reset.lstate ≠ .uninit ∧ ready0.busy = false ∧ ready0.lstate ≠ .uninit := by
  decide

theorem witness_LatchTrace :
    Instr.isRequest .init = true ∧ uninit0.busy = false ∧ failedCheck uninit0.lstate .init = none ∧
      replay 0x00#8 uninit0.trace = uninit0.lines ∧ level uninit0.lines .en = false := by decide

/-- ACQ with either bit in OFF, and with an instance. -/
theorem witness_Acq :
    (∀ ok, let s := { State.reset with acq := some ok }
      s.busy = false ∧ s.acq = some ok ∧ s.lstate = .off ∧ deliver s = none) ∧
    (∀ ok, let s := { ready0 with acq := some ok }
      s.busy = false ∧ s.acq = some ok ∧ s.lstate ≠ .off ∧ deliver s = none) := by decide

/-- The host waits with a word to present; 0 steps and all of them. -/
theorem witness_HostWaits :
    let s := { uninit0 with hostWait := 2, inputs := [.present 0x3000#16] }
    s.busy = false ∧ s.acq = none ∧ s.reqValid = false ∧ 0 ≤ s.hostWait ∧ 2 ≤ s.hostWait ∧
      ∀ ok rest, s.inputs ≠ .acq ok :: rest := by simp [uninit0, State.reset]

theorem witness_Attach :
    let s := { State.reset with inputs := [.attach true] }
    s.busy = false ∧ s.acq = none ∧ s.reqValid = false ∧ s.hostWait = 0 ∧ s.lstate = .off ∧
      s.inputs = .attach true :: [] := by decide

/-- A step from a good state that changes `LSTATE`: here DETACH; `STICKY` and `DIAG` in the next two. -/
theorem witness_LifecycleStep :
    (calling (.request 0x9000#16) ready0).Inv ∧
      (∃ t, step (calling (.request 0x9000#16) ready0) = .next t) ∧
      after State.lstate (step (calling (.request 0x9000#16) ready0)) = some .off :=
  ⟨inv_of_idle rfl (.inr rfl) rfl rfl rfl rfl rfl rfl, next_of_isSome (by decide +kernel), by decide +kernel⟩

theorem witness_StickyRises :
    after (fun t => (decide (DiagEvent.engine .reservedOpcode ∈ t.diag.drop 0), t.sticky))
      (step (calling (.request 0x0000#16) ready0)) = some (true, true) := by decide +kernel

theorem witness_StickyFalls :
    let s := { State.reset with sticky := true, acq := some true }
    s.sticky = true ∧ after State.sticky (step s) = some false := by decide +kernel

theorem witness_ReadValue :
    (readyWith (filled 32#6)).busy = false ∧ (readyWith (filled 32#6)).host = some (filled 32#6) ∧
      (filled 32#6).len.toNat ≤ 32 := by decide

theorem witness_HostShift :
    (ShiftTarget.display, ShiftDir.left, 2#8, 0x6002#16, 0x18#8) ∈
      [(ShiftTarget.display, ShiftDir.right, 3#8, 0x6003#16, 0x1C#8), (.display, .left, 2#8, 0x6002#16, 0x18#8),
        (.cursor, .right, 1#8, 0x6001#16, 0x14#8), (.cursor, .left, 0#8, 0x6000#16, 0x10#8)] := by decide

theorem witness_Unrecognized :
    0x07#8 ∉ HostCodeMap.placeholder.codes ∧ 0xFF#8 ∉ HostCodeMap.placeholder.codes ∧ uninit0.busy = false ∧
      uninit0.host = some .fresh := by decide

theorem witness_NoInstance :
    Instr.isRequest .readValue = false ∧ State.reset.busy = false ∧ State.reset.inst = false ∧
      Instr.isRequest .clearScreen = true ∧ Instr.clearScreen ≠ .init ∧ State.reset.lstate = .off := by decide

/-- `LEN` at the two ends of what no run reaches. -/
theorem witness_BufferIndexFault :
    (readyWith (filled 33#6)).busy = false ∧ (readyWith (filled 33#6)).host = some (filled 33#6) ∧
      32 < (filled 33#6).len.toNat ∧ 32 < (filled 63#6).len.toNat := by decide

/-- A host command on a good instance that answers a next state, in READY and in UNINIT. -/
theorem witness_HostCommandsKeepR118 :
    Instr.isRequest (.writeValue [0x0A#8]) = false ∧ (readyWith (filled 31#6)).busy = false ∧
      (readyWith (filled 31#6)).host = some (filled 31#6) ∧ (filled 31#6).Wf ∧
      (∃ t, exec (.writeValue [0x0A#8]) (readyWith (filled 31#6)) = .next t) ∧
      (∃ t, exec (.writeValue [0x41#8]) uninit0 = .next t) :=
  ⟨rfl, rfl, rfl, wf_filled (by decide) (by decide), next_of_isSome (by decide +kernel),
    next_of_isSome (by decide +kernel)⟩

theorem witness_NibblePairs :
    Instr.isRequest .hostClearScreen = false ∧ Attached ready0 .fresh ∧ DevInst.fresh.Wf ∧
      replay 0x00#8 ready0.trace = ready0.lines ∧ level ready0.lines .en = false :=
  ⟨rfl, ⟨serving_ready0, rfl⟩, wf_fresh, rfl, rfl⟩

/-! ## Waits and the host's duties -/

/-- R13, R114: a presented word is held back while the host waits, an ACQ event is not. -/
theorem test_wait_holds_the_word_back :
    deliver { uninit0 with hostWait := 1, inputs := [.present 0x3000#16] } = none ∧
      after (fun t => (t.hostWait, t.reqValid)) (step { uninit0 with hostWait := 1, inputs := [.present 0x3000#16] })
        = some (0, false) ∧
      after State.reqValid (step { uninit0 with inputs := [.present 0x3000#16] }) = some true ∧
      after State.acq (step { uninit0 with hostWait := 1, inputs := [.acq true] }) = some (some true) := by
  decide +kernel

/-- R80: the event of a `Wait` comes after the hold: not with the load of `DLY`, but with its fall to 0. -/
theorem test_wait_event_comes_last :
    after (fun t => (t.dly, t.trace.getLast?)) (step enHigh) = some (1, some (.set .en true)) ∧
      after (fun t => (t.dly, t.trace.getLast?)) (step { enHigh with dly := 1 }) = some (0, some (.wait 1)) := by
  decide +kernel

/-- A schedule from a state. -/
def scheduled (s : State) (is : List Input) : State := { s with inputs := is }

/-- R165: a slow byte followed too early, by a call or on the port, and in time. -/
theorem test_duty_settle :
    ¬ keepsDuties (scheduled ready0 [.call (.request 0x2001#16), .call (.request 0x2148#16)]) ∧
      ¬ keepsDuties (scheduled ready0 [.call (.request 0x2001#16), .wait 1999, .present 0x2148#16]) ∧
      keepsDuties (scheduled ready0 [.call (.request 0x2001#16), .wait 2000, .present 0x2148#16]) ∧
      ¬ keepsDuties (scheduled ready0 [.call (.request 0x1000#16), .call (.request 0x1001#16),
        .call (.command 0x03#8 [])]) := by decide +kernel

/-- R168: a lone nibble, a pair, two RS values, and a nibble that is rejected and so is none. -/
theorem test_duty_pairing :
    ¬ keepsDuties (scheduled ready0 [.call (.request 0x1004#16)]) ∧
      keepsDuties (scheduled ready0 [.call (.request 0x1104#16), .present 0x1108#16]) ∧
      ¬ keepsDuties (scheduled ready0 [.call (.request 0x1004#16), .call (.request 0x1108#16)]) ∧
      ¬ keepsDuties (scheduled ready0 [.call (.request 0x1004#16), .call (.command 0x00#8 [0x41#8])]) ∧
      ¬ keepsDuties (scheduled State.reset [.call (.request 0x1003#16), .attach true, .call (.request 0x1004#16)]) := by
  decide +kernel

/-- R166: the handshake from nibbles with its waits, and without one of them, SET_BACKLIGHT in between. -/
theorem test_duty_handshake :
    let shake (t₁ t₂ t₃ : Nat) : List Input := [.call (.request 0x1003#16), .wait t₁, .call (.request 0x8001#16),
      .call (.request 0x1003#16), .wait t₂, .call (.request 0x1003#16), .wait t₃, .present 0x1002#16]
    keepsDuties (scheduled ready0 (shake 5000 200 200)) ∧ ¬ keepsDuties (scheduled ready0 (shake 4999 200 200)) ∧
      ¬ keepsDuties (scheduled ready0 (shake 5000 199 200)) ∧
      ¬ keepsDuties (scheduled ready0 (shake 5000 200 199)) := by decide +kernel

/-- R114, R137, R162: INIT only `T_POWERON` after ACQ, no other request before READY, no host command in UNINIT or
OFF. -/
theorem test_duty_order :
    let s := { State.reset with cfg := { Config.default with powerOn := 40 } }
    keepsDuties (scheduled s [.attach true, .call (.command 0x01#8 [])]) ∧
      keepsDuties (scheduled s [.acq true, .wait 40, .present 0x3000#16, .call (.command 0x01#8 [])]) ∧
      ¬ keepsDuties (scheduled s [.acq false, .wait 40, .present 0x3000#16]) ∧
      ¬ keepsDuties (scheduled s [.acq true, .wait 39, .present 0x3000#16]) ∧
      ¬ keepsDuties (scheduled s [.acq true, .wait 40, .call (.request 0x8001#16)]) ∧
      ¬ keepsDuties (scheduled s [.acq true, .call (.command 0x01#8 [])]) ∧
      ¬ keepsDuties (scheduled s [.attach true, .call (.request 0x9000#16), .call (.command 0x01#8 [])]) := by
  decide +kernel

/-- R114 step 3 and R162, at the moment of presentation: a word on the port while INIT runs, INIT before ACQ is
delivered or taken, and a word on the port once DETACH has begun, though ACQ comes before its acceptance. -/
theorem test_duty_order_at_the_port :
    keepsDuties (scheduled State.reset [.acq true, .wait 0, .present 0x3000#16, .wait 0, .present 0x2148#16]) ∧
      ¬ keepsDuties (scheduled State.reset [.acq true, .wait 0, .present 0x3000#16, .present 0x8001#16]) ∧
      ¬ keepsDuties (scheduled State.reset [.acq true, .wait 0, .present 0x3000#16, .present 0x3000#16]) ∧
      ¬ keepsDuties (scheduled State.reset [.acq true, .present 0x3000#16, .present 0x2148#16]) ∧
      ¬ keepsDuties (scheduled State.reset [.present 0x3000#16, .acq true]) ∧
      ¬ keepsDuties (scheduled State.reset [.acq true, .present 0x3000#16]) ∧
      keepsDuties (scheduled State.reset [.wait 1, .acq true, .present 0x3000#16]) ∧
      ¬ keepsDuties (scheduled ready0 [.present 0x9000#16, .present 0x3000#16, .acq true]) ∧
      ¬ keepsDuties (scheduled { uninit0 with busy := true, req := 0x3000#16 } [.present 0x2148#16]) := by
  decide +kernel

/-- The port in service: a word behind a running one, and a slow byte running at the start. -/
theorem test_duty_port :
    keepsDuties (scheduled ready0 [.present 0x2148#16, .present 0x2149#16, .acq true, .call (.request 0x9000#16)]) ∧
      ¬ keepsDuties (scheduled ready0 [.present 0x2001#16, .present 0x2148#16]) ∧
      ¬ keepsDuties (scheduled { ready0 with busy := true, req := 0x2001#16 } [.present 0x2148#16]) := by decide +kernel

/-- R174's row of WRITE_VALUE, for five letters and one row change. -/
theorem test_writeValue_duration : writeValueMicros 5 1 = 612 ∧ writeValueTicks 5 1 = 84 := by decide

end Sys2Proof.Tests
end

section
/-! PROOFS. Request words: what the decoder reads is what the encoder writes (30_encoding.md R57, R66, R69, R76). -/

namespace Sys2Proof.Machine

/-- R66: every mask has the three bits of `RSV`. -/
theorem rsvMask_covers_rsv {op : BitVec 4} {mask : ReqWord} (h : rsvMask op = some mask) :
    mask.extractLsb' 9 3 = 7#3 := by
  unfold rsvMask at h
  split at h <;> cases h <;> rfl

theorem reqRsv_eq_zero {w mask : ReqWord} (hm : rsvMask (reqOp w) = some mask) (hz : w &&& mask = 0#16) :
    reqRsv w = 0#3 := by
  have h := congrArg (BitVec.extractLsb' 9 3) hz
  rw [BitVec.extractLsb'_and, rsvMask_covers_rsv hm] at h
  rw [reqRsv, ← BitVec.and_allOnes (x := w.extractLsb' 9 3)]
  exact h

/-- R57: a word is its fields. -/
theorem reqWord_eq_fields (w : ReqWord) : w = reqOp w ++ reqRsv w ++ bit1 (reqRs w) ++ reqOpd w := by
  refine BitVec.eq_of_getLsbD_eq fun j hj => ?_
  simp only [BitVec.getLsbD_append, reqOp, reqRsv, reqRs, reqOpd, bit1, BitVec.getLsbD_extractLsb',
    BitVec.getLsbD_ofBool]
  interval_cases j <;> simp

/-- A legal opcode with its fields, no reserved bit among them, is what the encoder writes (R66, R76). -/
theorem requestWord_of_legalRequest {op : BitVec 4} {rs : Bool} {opd : Byte} {mask : ReqWord} {i : Instr}
    (hm : rsvMask op = some mask) (hl : legalRequest op rs opd = some i)
    (hz : (op ++ 0#3 ++ bit1 rs ++ opd) &&& mask = 0#16) : requestWord i = op ++ 0#3 ++ bit1 rs ++ opd := by
  have hop (k : Nat) (h : op.toNat = k) : op = BitVec.ofNat 4 k := by simp [← h]
  unfold legalRequest at hl
  split at hl
  case h_10 => cases hl
  all_goals
    cases hop _ ‹_›
    cases hl
    cases hm
    revert rs opd
    decide +kernel

/-- Decoding loses no bit of a word: the encoder gives it back (R69, R76). -/
theorem requestWord_of_decodeRequest {w : ReqWord} {i : Instr} (h : decodeRequest w = .ok i) : requestWord i = w := by
  unfold decodeRequest at h
  split at h
  · cases h
  · rename_i mask hm
    split at h
    · cases h
    · rename_i hz
      have hz : w &&& mask = 0#16 := by simpa using hz
      split at h
      · cases h
        rename_i hl
        have hw := reqWord_eq_fields w
        rw [reqRsv_eq_zero hm hz] at hw
        exact (requestWord_of_legalRequest hm hl (hw ▸ hz)).trans hw.symm
      · cases h

end Sys2Proof.Machine
end

section
/-! PROOFS. Micro-programs: the lines they set, EN after a part of one, and `seq_pc` inside one (10_state.md R18,
40_line_driver.md R82 and R84). -/

namespace Sys2Proof.Machine

@[simp] theorem setRw_not_mem_nibbleOps (n : Nibble) (rs v : Bool) : .setLine .rw v ∉ nibbleOps n rs := by
  simp [nibbleOps, strobeOps]

@[simp] theorem setRw_not_mem_settledCommandOps (b : Byte) (v : Bool) : .setLine .rw v ∉ settledCommandOps b := by
  simp [settledCommandOps, commandOps, byteOps]

/-- R84: no micro-program drives RW. -/
theorem setRw_not_mem_microProgram (c : Config) (i : Instr) (v : Bool) : .setLine .rw v ∉ microProgram c i := by
  cases i <;> simp [microProgram, detachOps, initOps, commandOps, byteOps]

/-- EN after one micro-operation more of a program (R82). -/
theorem level_en_take_succ {ops : List MicroOp} {k : Nat} {op : MicroOp} {L : Byte} (h : ops[k]? = some op)
    (hL : level L .en = enAfter false (ops.take k)) :
    level (levelsAfter L op.event) .en = enAfter false (ops.take (k + 1)) := by
  rw [List.take_add_one, h, enAfter_append, ← hL]
  exact level_en_replay L [op]

/-- `seq_pc` does not wrap inside a micro-program (R18). -/
theorem toNat_seqPc_succ {c : Config} {i : Instr} {pc : BitVec 8} {op : MicroOp}
    (h : (microProgram c i)[pc.toNat]? = some op) :
    (pc + 1#8).toNat = pc.toNat + 1 ∧ pc.toNat + 1 ≤ (microProgram c i).length := by
  have h1 := (List.getElem?_eq_some_iff.1 h).1
  have h2 := length_microProgram_le c i
  rw [BitVec.toNat_add]
  exact ⟨Nat.mod_eq_of_lt (by simp; omega), h1⟩

end Sys2Proof.Machine
end

section
/-! PROOFS. A running request by ticks: the steps of a busy Engine lead to `drain`, and the accepted word of a request
runs as its synchronous call does (10_state.md R18, R21; 40_line_driver.md R79, R80). -/

namespace Sys2Proof.Machine

/-- Every micro-program that runs is that of an instruction. -/
theorem currentProgram_eq_nil_or (s : State) :
    currentProgram s = [] ∨ ∃ i, currentProgram s = microProgram s.cfg i := by
  unfold currentProgram
  split
  · exact .inr ⟨_, rfl⟩
  · exact .inl rfl

theorem toNat_seqPc_succ_of_current {s : State} {op : MicroOp} (h : (currentProgram s)[s.seqPc.toNat]? = some op) :
    (s.seqPc + 1#8).toNat = s.seqPc.toNat + 1 := by
  rcases currentProgram_eq_nil_or s with hn | ⟨i, hi⟩
  · simp [hn] at h
  · rw [hi] at h
    exact (toNat_seqPc_succ h).1

@[simp] theorem perform_busy (op : MicroOp) (s : State) : (perform op s).busy = s.busy := by cases op <;> rfl
@[simp] theorem perform_inputs (op : MicroOp) (s : State) : (perform op s).inputs = s.inputs := by cases op <;> rfl
@[simp] theorem perform_seqPc (op : MicroOp) (s : State) : (perform op s).seqPc = s.seqPc + 1#8 := by cases op <;> rfl
@[simp] theorem currentProgram_perform (op : MicroOp) (s : State) :
    currentProgram (perform op s) = currentProgram s := by cases op <;> rfl

theorem perform_dly {op : MicroOp} {s : State} (h : s.dly = 0) : (perform op s).dly = 0 := by
  rw [perform_eq op s h]; exact h

/-- The rest of a request that runs, where no `Wait` runs. -/
theorem drain_eq {s : State} (hb : s.busy = true) (hd : s.dly = 0) :
    drain s = completeCurrent (runOps ((currentProgram s).drop s.seqPc.toNat) s) := by
  simp [drain, hb, hd]

/-- One micro-operation of the rest, then the rest. -/
theorem drain_perform {s : State} {op : MicroOp} (hb : s.busy = true) (hd : s.dly = 0)
    (hop : (currentProgram s)[s.seqPc.toNat]? = some op) : drain (perform op s) = drain s := by
  obtain ⟨hlt, hget⟩ := List.getElem?_eq_some_iff.1 hop
  rw [drain_eq hb hd, drain_eq (by simpa using hb) (perform_dly hd), perform_seqPc, currentProgram_perform,
    toNat_seqPc_succ_of_current hop, List.drop_eq_getElem_cons hlt, hget]
  rfl

/-- Some number of steps leads from `s` to `t`. -/
def Reaches (s t : State) : Prop := ∃ n, Sys2Proof.core.run n s = .next t

theorem Reaches.refl (s : State) : Reaches s s := ⟨0, rfl⟩

/-- A step before a run. -/
theorem Reaches.step {s t u : State} (h : step s = .next t) (hr : Reaches t u) : Reaches s u := by
  obtain ⟨n, hn⟩ := hr
  refine ⟨n + 1, ?_⟩
  simpa [Host.Core.run, show Sys2Proof.core.step s = .next t from h] using hn

/-- A step of a busy Engine with nothing to deliver is a tick. -/
theorem step_busy {s : State} (hb : s.busy = true) (hd : deliver s = none) : step s = .next (engineTick s) := by
  simp [step, stepOnce, hd, hb]

theorem deliver_nil {s : State} (h : s.inputs = []) : deliver s = none := by simp [deliver, h]

/-- A tick before a run. -/
theorem Reaches.tick {s u : State} (hb : s.busy = true) (hi : s.inputs = []) (hr : Reaches (engineTick s) u) :
    Reaches s u := hr.step (step_busy hb (deliver_nil hi))

/-- A `Wait` that runs is counted down to its end (R19, R80). -/
theorem Reaches.endWait {s u : State} (hb : s.busy = true) (hi : s.inputs = []) (hd : s.dly ≠ 0)
    (hr : Reaches (endWait (waitEvents s) s) u) : Reaches s u := by
  induction hn : s.dly generalizing s with
  | zero => exact absurd hn hd
  | succ n ih =>
    rcases engineTick_cases s with ⟨h1, ht⟩ | ⟨-, ht⟩ | ⟨h0, -⟩ | ⟨h0, -⟩ | ⟨h0, -⟩ | ⟨h0, -⟩
    · refine .tick hb hi (ht ▸ ih (s := { s with dly := s.dly - 1 }) hb hi ?_ hr ?_)
      · exact Nat.sub_ne_zero_of_lt h1
      · exact Nat.sub_eq_of_eq_add hn
    · exact .tick hb hi (ht ▸ hr)
    all_goals exact absurd h0 hd

/-- A micro-operation is carried out by ticks: one for a `SetLine`, the hold for a `Wait` (R79, R80). -/
theorem Reaches.perform {s u : State} {op : MicroOp} (hb : s.busy = true) (hi : s.inputs = []) (hd : s.dly = 0)
    (hop : (currentProgram s)[s.seqPc.toNat]? = some op) (hr : Reaches (perform op s) u) : Reaches s u := by
  refine .tick hb hi ?_
  cases op with
  | setLine l v => simpa [engineTick, hd, hop, Machine.perform] using hr
  | wait t =>
    by_cases ht : ticksFor s.cfg t = 0
    · simpa [engineTick, hd, hop, startWait, ht, Machine.perform] using hr
    · have he : engineTick s = beginWait t s := by simp [engineTick, hd, hop, startWait, ht]
      have hw : waitEvents (beginWait t s) = [.wait t] := waitEvents_eq hop
      rw [he]
      exact .endWait hb hi ht (hw ▸ hr)

/-- Outside a `Wait`, a running request comes to its end by ticks. -/
theorem reaches_drain_of_dly_eq_zero {s : State} (hb : s.busy = true) (hi : s.inputs = []) (hd : s.dly = 0) :
    Reaches s (drain s) := by
  induction hn : (currentProgram s).length - s.seqPc.toNat generalizing s with
  | zero =>
    have hp : (currentProgram s)[s.seqPc.toNat]? = none := List.getElem?_eq_none (by omega)
    have hdrop : (currentProgram s).drop s.seqPc.toNat = [] := List.drop_eq_nil_of_le (by omega)
    rw [drain_eq hb hd, hdrop]
    refine .tick hb hi ?_
    simpa [engineTick, hd, hp, runOps] using Reaches.refl _
  | succ n ih =>
    have hop := List.getElem?_eq_getElem (show s.seqPc.toNat < (currentProgram s).length by omega)
    refine .perform hb hi hd hop ?_
    rw [← drain_perform hb hd hop]
    refine ih (by simpa using hb) (by simpa using hi) (perform_dly hd) ?_
    rw [currentProgram_perform, perform_seqPc, toNat_seqPc_succ_of_current hop]
    omega

/-- A running request comes to its end by ticks. -/
theorem reaches_drain {s : State} (hb : s.busy = true) (hi : s.inputs = []) : Reaches s (drain s) := by
  by_cases hd : s.dly = 0
  · exact reaches_drain_of_dly_eq_zero hb hi hd
  · have he : drain s = drain (endWait (waitEvents s) s) := by simp [drain, hb, hd]
    rw [he]
    exact .endWait hb hi hd (reaches_drain_of_dly_eq_zero hb hi rfl)

theorem drain_drain (s : State) : drain (drain s) = drain s := drain_idle (drain_busy s)

theorem dispatch_drain (k : DevInst → State → Host.Outcome State Fault Refusal) (s : State) :
    dispatch k s = dispatch k (drain s) := by
  rw [dispatch, dispatch, drain_drain]

/-- An instruction executed while a request runs acts on what the request leaves. -/
theorem exec_drain (i : Instr) (s : State) : exec i s = exec i (drain s) := by
  rcases hr : i.isRequest with _ | _
  · cases i <;> cases hr
    all_goals
      simp only [exec, execWriteValue, execReadValue, execHostClearScreen, execBacklightOn, execBacklightOff,
        execHostShift, execHostCursorReturn, execHostUnrecognized]
      exact dispatch_drain _ s
  · rw [exec_request hr, exec_request hr, serve, serve, drain_drain]

/-- The step that accepts the word on the port. -/
theorem step_port {s : State} (hb : s.busy = false) (ha : s.acq = none) (hv : s.reqValid = true)
    (hd : deliver s = none) : step s = .next (acceptPort s) := by
  simp [step, stepOnce, hd, hb, ha, hv]

/-- Acceptance at the port of a request that passes its checks (R28). -/
theorem acceptPort_start {s : State} {i : Instr} (hd : decodeRequest s.reqWord = .ok i)
    (hc : failedCheck s.lstate i = none) : acceptPort s = accept s.reqWord { s with reqValid := false } := by
  simp [acceptPort, hd, hc]

/-- A request called on an idle Engine is the one its accepted word starts, run to its end. -/
theorem serveIdle_eq_drain {i : Instr} {s : State} (hr : i.isRequest = true) (h : failedCheck s.lstate i = none) :
    serveIdle i s = drain (accept (requestWord i) s) := by
  have hrun := running_accept hr s
  rw [drain_eq rfl rfl, currentProgram_eq hrun, runOps_eq _ _ rfl, serveIdle_ran h]
  rw [completeCurrent_eq (by exact hrun)]
  simp

end Sys2Proof.Machine
end

section
/-! PROOFS. What every host command comes to: requests, then the device data, diagnostics and replies (43_host_layer.md R121
to R134); and that R118 is kept. -/

namespace Sys2Proof.Machine

/-- A relation that every request of a list keeps holds across the list. -/
theorem serveAll_rel {R : State → State → Prop} (hrefl : ∀ s, R s s) (htrans : ∀ {s t u}, R s t → R t u → R s u)
    {is : List Instr} (hR : ∀ i ∈ is, ∀ s, R s (serveIdle i s)) {s : State} (hb : s.busy = false) :
    R s (serveAll is s) := by
  induction is generalizing s with
  | nil => exact hrefl s
  | cons i is ih =>
    rw [serveAll_cons]
    refine htrans ?_ (ih (fun j hj => hR j (List.mem_cons_of_mem _ hj)) (serve_busy i s))
    rw [serve_idle hb]
    exact hR i List.mem_cons_self s

theorem DevInst.wf_fresh : DevInst.fresh.Wf :=
  ⟨wf_nil, by decide, fun _ _ => rfl, by decide, fun _ => by decide, rfl⟩

/-- Storing a byte behind the buffer's contents keeps R118, where the row fits the new length. -/
theorem appendByte_wf {b : Byte} {h h' : DevInst} (hl : h.len.toNat < 32) (hbuf : h.buf.wf)
    (hz : ∀ k, h.len.toNat ≤ k → readCell h.buf k = 0x00#8) (hrow : h.row.toNat ≤ h.len.toNat + 1)
    (hfirst : h.row = 0#6 → h.len.toNat < 16) (hcol : h.col = 0#5) (ha : appendByte b h = .ok h') : h'.Wf := by
  rw [appendByte_ok hl] at ha
  cases ha
  have hlen : (h.len + 1#6).toNat = h.len.toNat + 1 := by
    rw [BitVec.toNat_add]; exact Nat.mod_eq_of_lt (by simp; omega)
  exact
    { buf_wf := wf_writeCell hbuf hl b
      len_le := by simp only [hlen]; omega
      zero_above := fun k hk => by
        simp only [hlen] at hk
        rw [readCell_writeCell hbuf.1, if_neg (by omega), hz k (by omega)]
      row_le_len := by simpa only [hlen] using hrow
      first_row := fun h0 => by simp only [hlen]; exact hfirst h0
      col_zero := hcol }

/-- `ROW + 1` does not wrap on a good device that is not full. -/
theorem DevInst.Wf.toNat_nextRow {h : DevInst} (hw : h.Wf) (hl : h.len.toNat < 32) :
    (nextRow h).row.toNat = h.row.toNat + 1 := by
  have := hw.row_le_len
  rw [nextRow, BitVec.toNat_add]
  exact Nat.mod_eq_of_lt (by simp; omega)

/-- A byte stored after a row change keeps R118. -/
theorem appendByte_nextRow_wf {b : Byte} {h h' : DevInst} (hw : h.Wf) (hl : h.len.toNat < 32)
    (ha : appendByte b (nextRow h) = .ok h') : h'.Wf := by
  have hrow := hw.toNat_nextRow hl
  refine appendByte_wf (h := nextRow h) hl hw.buf_wf hw.zero_above ?_ (fun h0 => ?_) hw.col_zero ha
  · rw [hrow]; exact Nat.succ_le_succ hw.row_le_len
  · rw [h0] at hrow; cases hrow

/-- A byte stored where the row does not wrap keeps R118. -/
theorem appendByte_sameRow_wf {b : Byte} {h h' : DevInst} (hw : h.Wf) (hl : h.len.toNat < 32)
    (hs : softWraps h = false) (ha : appendByte b h = .ok h') : h'.Wf := by
  refine appendByte_wf hl hw.buf_wf hw.zero_above (Nat.le_succ_of_le hw.row_le_len) (fun h0 => ?_) hw.col_zero ha
  have hn : h.row = 0#6 → h.len.toNat ≤ 15 := by simpa [softWraps] using hs
  exact Nat.lt_succ_of_le (hn h0)

/-- The write path keeps R118 (R121 to R125). -/
theorem writePlan_wf {pol : RowPolicy} {bs : List Byte} {h : DevInst} {p : WritePlan}
    (hp : writePlan pol bs h = .ok p) (hw : h.Wf) : p.inst.Wf := by
  induction bs generalizing h p with
  | nil => cases hp; exact hw
  | cons b bs ih =>
    rcases writePlan_cons hp with ⟨-, rfl⟩ | ⟨hne, h₁, h', is, q, ha, hq, rfl, hc⟩
    · exact hw
    · have hl : h.len.toNat < 32 := by
        have := hw.len_le
        have : h.len.toNat ≠ 32 := fun e => hne (BitVec.eq_of_toNat_eq e)
        omega
      refine ih (p := q) hq ?_
      rcases hc with ⟨-, rfl, -⟩ | ⟨-, -, rfl, -⟩ | ⟨-, hs, rfl, -⟩
      · exact appendByte_nextRow_wf hw hl ha
      · exact appendByte_nextRow_wf hw hl ha
      · exact appendByte_sameRow_wf hw hl hs ha

/-- The state a host command leaves: its requests in order, then the device, diagnostics and replies. -/
def hostEnd (is : List Instr) (h : DevInst) (ds : List HostDiag) (rs : List Reply) (s : State) : State :=
  { withInst h (serveAll is s) with
    diag := (serveAll is s).diag ++ ds.map .host, replies := (serveAll is s).replies ++ rs }

theorem withInst_self {h : DevInst} {s : State} (hh : s.host = some h) : withInst h s = s := by
  rw [withInst, ← hh]

/-- One request, other than DETACH, on an idle Engine with a device. -/
theorem serve_withInst {j : Instr} {h : DevInst} {s : State} (hj : j ≠ .detach) (hb : s.busy = false) :
    serve j (withInst h s) = hostEnd [j] h [] [] s := by
  rw [serve_idle (by exact hb), serveIdle_withInst hj]
  simp [hostEnd, serve_idle hb, withInst]

theorem WritePlan.run_eq_hostEnd (p : WritePlan) (s : State) :
    p.run s = hostEnd p.requests p.inst (if p.full then [.bufferFull] else []) [] s := by
  unfold WritePlan.run
  split <;> simp [hostEnd, emit, withInst, *]

/-- A dispatched command that answers a next state found a device (R143). -/
theorem dispatch_next {k : DevInst → State → Host.Outcome State Fault Refusal} {s t : State} (hb : s.busy = false)
    (h : dispatch k s = .next t) : ∃ inst, s.host = some inst ∧ k inst s = .next t := by
  rcases hh : s.host with _ | inst
  · rw [dispatch_none hb hh] at h; cases h
  · exact ⟨inst, rfl, by rwa [dispatch_some hb hh] at h⟩

/-- What the requests of a host command can be: neither INIT nor DETACH (R121 to R133). -/
def InnerRequest (j : Instr) : Prop := j.isRequest = true ∧ j ≠ .init ∧ j ≠ .detach

theorem writePlan_innerRequest {pol : RowPolicy} {bs : List Byte} {h : DevInst} {p : WritePlan}
    (hp : writePlan pol bs h = .ok p) : ∀ j ∈ p.requests, InnerRequest j := by
  intro j hj
  rcases writePlan_requests hp j hj with ⟨b, rfl⟩ | rfl | rfl <;> simp [InnerRequest, Instr.isRequest]

/-- What a host command can have done: requests, a new value for the device that keeps R118, diagnostics of the host
and replies. -/
def HostRun (s t : State) : Prop :=
  ∃ inst is inst' ds rs, s.host = some inst ∧ (∀ j ∈ is, InnerRequest j) ∧ (inst.Wf → inst'.Wf) ∧
    t = hostEnd is inst' ds rs s

/-- A host command that issues one request and leaves the device alone. -/
theorem hostRun_of_serve {j : Instr} {s t : State} (hj : InnerRequest j) (hb : s.busy = false)
    (h : dispatch (fun _ s' => .next (serve j s')) s = .next t) : HostRun s t := by
  obtain ⟨inst, hh, hk⟩ := dispatch_next hb h
  cases hk
  exact ⟨inst, [j], inst, [], [], hh, by simpa using hj, id, by rw [← serve_withInst hj.2.2 hb, withInst_self hh]⟩

/-- Everything a host command that answers a next state can have done. -/
theorem exec_hostRun {i : Instr} {s t : State} (hi : i.isRequest = false) (hb : s.busy = false)
    (h : exec i s = .next t) : HostRun s t := by
  cases i with
  | writeValue bytes =>
    obtain ⟨inst, hh, hk⟩ := dispatch_next hb h
    rw [writeLoop_eq _ _ hb] at hk
    split at hk <;> cases hk
    rename_i p hp
    exact ⟨inst, _, _, _, _, hh, writePlan_innerRequest hp, writePlan_wf hp, p.run_eq_hostEnd s⟩
  | readValue =>
    rw [exec, execReadValue] at h
    obtain ⟨inst, hh, hk⟩ := dispatch_next hb h
    split at hk <;> cases hk
    rename_i bytes _
    exact ⟨inst, [], inst, [], [⟨inst.len, bytes⟩], hh, by simp, id, by simp [hostEnd, withInst_self hh]⟩
  | hostClearScreen =>
    rw [exec, execHostClearScreen] at h
    obtain ⟨inst, hh, hk⟩ := dispatch_next hb h
    cases hk
    exact ⟨inst, [.clearScreen], .fresh, [], [], hh, by simp [InnerRequest, Instr.isRequest],
      fun _ => DevInst.wf_fresh, serve_withInst nofun hb⟩
  | hostUnrecognized code payload =>
    rw [exec, execHostUnrecognized] at h
    obtain ⟨inst, hh, hk⟩ := dispatch_next hb h
    cases hk
    exact ⟨inst, [], inst, [.unrecognizedCommand], [], hh, by simp, id, by simp [hostEnd, withInst_self hh, emit]⟩
  | backlightOn => exact hostRun_of_serve (j := .setBacklight true) ⟨rfl, nofun, nofun⟩ hb h
  | backlightOff => exact hostRun_of_serve (j := .setBacklight false) ⟨rfl, nofun, nofun⟩ hb h
  | hostShift tgt dir => exact hostRun_of_serve (j := .shift tgt dir) ⟨rfl, nofun, nofun⟩ hb h
  | hostCursorReturn => exact hostRun_of_serve (j := .cursorReturn) ⟨rfl, nofun, nofun⟩ hb h
  | _ => cases hi

end Sys2Proof.Machine
end

section
/-! PROOFS. What a request, a tick and a step do, each said once: `PortsKept`, `TickKept`, and `StepEffect` for every
step. -/

namespace Sys2Proof.Machine

theorem complete_cases (i : Instr) (s : State) :
    (i = .init ∧ complete i s = endRequest (becomeReady s)) ∨
    (i = .detach ∧ complete i s = endRequest (releaseLines s)) ∨
    (i ≠ .init ∧ i ≠ .detach ∧ complete i s = endRequest s) := by
  rcases finalEffect_cases i s with ⟨h, he⟩ | ⟨h, he⟩ | ⟨h, h', he⟩
  · exact .inl ⟨h, by rw [complete, he]⟩
  · exact .inr (.inl ⟨h, by rw [complete, he]⟩)
  · exact .inr (.inr ⟨h, h', by rw [complete, he]⟩)

/-- Completion, by what it does beside R88. -/
theorem completeCurrent_cases (s : State) :
    (running s = some .init ∧ completeCurrent s = endRequest (becomeReady s)) ∨
    (running s = some .detach ∧ completeCurrent s = endRequest (releaseLines s)) ∨
    completeCurrent s = endRequest s := by
  rcases hr : running s with _ | i
  · exact .inr (.inr (completeCurrent_none hr))
  · rw [completeCurrent_eq hr]
    rcases complete_cases i s with ⟨rfl, he⟩ | ⟨rfl, he⟩ | ⟨-, -, he⟩
    · exact .inl ⟨rfl, he⟩
    · exact .inr (.inl ⟨rfl, he⟩)
    · exact .inr (.inr he)

/-- What no request touches: the parameters, the ports, the pending event, what the host waits for and does next, and
the replies. -/
structure PortsKept (s t : State) : Prop where
  cfg : t.cfg = s.cfg
  reqValid : t.reqValid = s.reqValid
  reqWord : t.reqWord = s.reqWord
  acq : t.acq = s.acq
  hostWait : t.hostWait = s.hostWait
  inputs : t.inputs = s.inputs
  replies : t.replies = s.replies

theorem PortsKept.refl (s : State) : PortsKept s s := ⟨rfl, rfl, rfl, rfl, rfl, rfl, rfl⟩

theorem PortsKept.trans {s t u : State} (h1 : PortsKept s t) (h2 : PortsKept t u) : PortsKept s u where
  cfg := h2.cfg.trans h1.cfg
  reqValid := h2.reqValid.trans h1.reqValid
  reqWord := h2.reqWord.trans h1.reqWord
  acq := h2.acq.trans h1.acq
  hostWait := h2.hostWait.trans h1.hostWait
  inputs := h2.inputs.trans h1.inputs
  replies := h2.replies.trans h1.replies

theorem serveIdle_portsKept (i : Instr) (s : State) : PortsKept s (serveIdle i s) := by
  rcases hc : failedCheck s.lstate i with _ | c
  · rw [serveIdle_ran hc]
    rcases complete_cases i _ with ⟨-, h⟩ | ⟨-, h⟩ | ⟨-, -, h⟩ <;> rw [h] <;> constructor <;> rfl
  · rw [serveIdle_rejected hc]
    constructor <;> rfl

theorem serveAll_portsKept (is : List Instr) {s : State} (hb : s.busy = false) : PortsKept s (serveAll is s) :=
  serveAll_rel .refl .trans (fun i _ s => serveIdle_portsKept i s) hb

/-- What a running request leaves alone beside: its word, the diagnostics and `STICKY`. -/
structure TickKept (s t : State) : Prop extends PortsKept s t where
  req : t.req = s.req
  diag : t.diag = s.diag
  sticky : t.sticky = s.sticky

theorem completeCurrent_tickKept (s : State) : TickKept s (completeCurrent s) := by
  rcases completeCurrent_cases s with ⟨-, h⟩ | ⟨-, h⟩ | h <;> rw [h] <;>
    exact ⟨⟨rfl, rfl, rfl, rfl, rfl, rfl, rfl⟩, rfl, rfl, rfl⟩

theorem engineTick_tickKept (s : State) : TickKept s (engineTick s) := by
  rcases engineTick_cases s with ⟨-, h⟩ | ⟨-, h⟩ | ⟨-, _, _, -, h⟩ | ⟨-, _, -, -, h⟩ | ⟨-, _, -, -, h⟩ | ⟨-, -, h⟩ <;>
    rw [h]
  case inr.inr.inr.inr.inr => exact completeCurrent_tickKept s
  all_goals exact ⟨⟨rfl, rfl, rfl, rfl, rfl, rfl, rfl⟩, rfl, rfl, rfl⟩

/-- A word that is no request, on an idle Engine (R146). -/
theorem rejectWord_idle {w : ReqWord} {r : Reject} {s : State} (hb : s.busy = false) :
    rejectWord w r s = raiseError (Reject.cause r) (accept w s) := by rw [rejectWord, drain_idle hb]

/-- What a step does to a machine whose ports, host wait and schedule are already as the step leaves them. -/
inductive StepEffect (u : State) : State → Prop
  | stay : StepEffect u u
  | tick (hb : u.busy = true) : StepEffect u (engineTick u)
  | acquire (ho : u.lstate = .off) (hb : u.busy = false) : StepEffect u (acquire u)
  | rejectAcq (c : Cause) (hb : u.busy = false) : StepEffect u (raiseError c u)
  | start (i : Instr) (w : ReqWord) (hb : u.busy = false) (hd : decodeRequest w = .ok i)
      (hc : failedCheck u.lstate i = none) : StepEffect u (accept w u)
  | rejectWord (c : Cause) (w : ReqWord) (hb : u.busy = false) : StepEffect u (raiseError c (accept w u))
  | request (i : Instr) (hi : i.isRequest = true) (hb : u.busy = false) : StepEffect u (serveIdle i u)
  | host {t : State} (hb : u.busy = false) (h : HostRun u t) : StepEffect u t

/-- The state with other ports, host wait and schedule. -/
def withPorts (a : Option Bool) (v : Bool) (w : ReqWord) (k : Nat) (is : List Input) (s : State) : State :=
  { s with acq := a, reqValid := v, reqWord := w, hostWait := k, inputs := is }

theorem takeAcq_effect (ok : Bool) {u : State} (hb : u.busy = false) : StepEffect u (takeAcq ok u) := by
  rcases takeAcq_cases ok u with ⟨-, h⟩ | ⟨ho, -, h⟩ | ⟨-, -, h⟩ <;> rw [h]
  · exact .rejectAcq _ hb
  · exact .acquire ho hb
  · exact .rejectAcq _ hb

theorem attach_effect (ok : Bool) {s : State} (hb : s.busy = false) :
    ∃ k is, StepEffect { s with hostWait := k, inputs := is } (attach ok s) := by
  rcases attach_cases ok s with ⟨ho, -, h⟩ | ⟨-, h⟩ <;> rw [h]
  · exact ⟨_, .call (.request 0x3000#16) :: s.inputs,
      .acquire (u := { s with hostWait := ticksFor s.cfg s.cfg.powerOn, inputs := _ }) ho hb⟩
  · exact ⟨s.hostWait, s.inputs, takeAcq_effect ok hb⟩

theorem acceptPort_effect {s : State} (hb : s.busy = false) :
    StepEffect { s with reqValid := false } (acceptPort s) := by
  rcases acceptPort_cases s with ⟨i, hd, hc, h⟩ | ⟨c, -, h⟩ <;> rw [h]
  · exact .start i _ hb hd hc
  · exact .rejectWord c _ hb

theorem runCall_effect {c : Code} {s t : State} (hb : s.busy = false) (h : runCall c s = .next t) : StepEffect s t := by
  rcases runCall_cases h with ⟨i, -, he⟩ | ⟨w, r, -, -, rfl⟩
  · rcases hr : i.isRequest with _ | _
    · exact .host hb (exec_hostRun hr hb he)
    · rw [exec_request hr, serve_idle hb] at he
      cases he
      exact .request i hr hb
  · rw [rejectWord_idle hb]
    exact .rejectWord _ w hb

/-- Every step is a change of ports and one effect. -/
theorem step_effect {s t : State} (h : step s = .next t) : ∃ a v w k is, StepEffect (withPorts a v w k is s) t := by
  rcases step_cases h with ⟨ok, rest, -, -, rfl⟩ | ⟨w, rest, -, -, -, rfl⟩ | ⟨hb, rfl⟩ | ⟨ok, hb, -, rfl⟩ |
    ⟨hb, -, -, rfl⟩ | ⟨-, -, -, -, rfl⟩ | ⟨c, rest, hq, -, hc⟩ | ⟨ok, rest, hq, -, rfl⟩ | ⟨m, rest, -, -, rfl⟩ |
    ⟨-, rfl⟩
  · exact ⟨_, _, _, _, _, .stay⟩
  · exact ⟨_, _, _, _, _, .stay⟩
  · exact ⟨s.acq, s.reqValid, s.reqWord, s.hostWait, s.inputs, .tick hb⟩
  · exact ⟨none, s.reqValid, s.reqWord, s.hostWait, s.inputs, takeAcq_effect ok hb⟩
  · exact ⟨s.acq, false, s.reqWord, s.hostWait, s.inputs, acceptPort_effect hb⟩
  · exact ⟨_, _, _, _, _, .stay⟩
  · exact ⟨s.acq, s.reqValid, s.reqWord, s.hostWait, rest, runCall_effect hq.1 hc⟩
  · obtain ⟨k, is, he⟩ := attach_effect ok (s := { s with inputs := rest }) hq.1
    exact ⟨s.acq, s.reqValid, s.reqWord, k, is, he⟩
  · exact ⟨_, _, _, _, _, .stay⟩
  · exact ⟨t.acq, t.reqValid, t.reqWord, t.hostWait, t.inputs, .stay⟩

end Sys2Proof.Machine
end

section
/-! PROOFS. `STICKY` over every effect (10_state.md R24). -/

namespace Sys2Proof.Machine

/-- From `s` to `t` diagnostics were only appended, `STICKY` is set where an Engine event is among them, and it did not
fall (R24). -/
structure StickyKept (s t : State) : Prop where
  rises : ∃ ds, t.diag = s.diag ++ ds ∧ ((∃ c, .engine c ∈ ds) → t.sticky = true)
  stays : s.sticky = true → t.sticky = true

theorem StickyKept.of_eq {s t : State} (hd : t.diag = s.diag) (hs : t.sticky = s.sticky) : StickyKept s t :=
  ⟨⟨[], by simpa using hd, by simp⟩, fun h => hs.trans h⟩

theorem StickyKept.of_error {s t : State} {c : Cause} (hd : t.diag = s.diag ++ [.engine c]) (hs : t.sticky = true) :
    StickyKept s t := ⟨⟨_, hd, fun _ => hs⟩, fun _ => hs⟩

theorem StickyKept.trans {s t u : State} (h1 : StickyKept s t) (h2 : StickyKept t u) : StickyKept s u := by
  obtain ⟨⟨ds, hd, hr⟩, hs⟩ := h1
  obtain ⟨⟨es, he, hq⟩, ht⟩ := h2
  refine ⟨⟨ds ++ es, by rw [he, hd, List.append_assoc], ?_⟩, ht ∘ hs⟩
  rintro ⟨c, hc⟩
  rcases List.mem_append.1 hc with hc | hc
  · exact ht (hr ⟨c, hc⟩)
  · exact hq ⟨c, hc⟩

theorem serveIdle_stickyKept (i : Instr) (s : State) : StickyKept s (serveIdle i s) := by
  rcases hc : failedCheck s.lstate i with _ | c
  · rw [serveIdle_ran hc]
    rcases complete_cases i _ with ⟨-, h⟩ | ⟨-, h⟩ | ⟨-, -, h⟩ <;> rw [h] <;> exact .of_eq rfl rfl
  · rw [serveIdle_rejected hc]
    exact .of_error rfl rfl

theorem hostRun_stickyKept {s t : State} (hb : s.busy = false) (h : HostRun s t) : StickyKept s t := by
  obtain ⟨_, is, inst', ds, rs, -, -, -, rfl⟩ := h
  have hall : StickyKept s (serveAll is s) :=
    serveAll_rel (fun _ => .of_eq rfl rfl) .trans (fun i _ s => serveIdle_stickyKept i s) hb
  exact hall.trans ⟨⟨ds.map .host, rfl, by simp⟩, id⟩

/-- R24 over every effect but a successful ACQ. -/
theorem StepEffect.stickyKept_or {u t : State} (h : StepEffect u t) :
    StickyKept u t ∨ (u.lstate = .off ∧ t = Machine.acquire u) := by
  cases h with
  | acquire ho => exact .inr ⟨ho, rfl⟩
  | stay => exact .inl (.of_eq rfl rfl)
  | tick => exact .inl (.of_eq (engineTick_tickKept u).diag (engineTick_tickKept u).sticky)
  | rejectAcq c => exact .inl (.of_error rfl rfl)
  | start => exact .inl (.of_eq rfl rfl)
  | rejectWord c w => exact .inl (.of_error rfl rfl)
  | request i => exact .inl (serveIdle_stickyKept i u)
  | host hb h => exact .inl (hostRun_stickyKept hb h)

end Sys2Proof.Machine
end

section
/-! PROOFS. `LSTATE` over every effect (10_state.md R20). -/

namespace Sys2Proof.Machine

/-- A request inside a host command touches neither `LSTATE` nor the device. -/
theorem serveIdle_inner {j : Instr} (hj : InnerRequest j) (s : State) :
    (serveIdle j s).lstate = s.lstate ∧ (serveIdle j s).host = s.host := by
  rcases hc : failedCheck s.lstate j with _ | c
  · rw [serveIdle_ran hc]
    rcases complete_cases j _ with ⟨h, -⟩ | ⟨h, -⟩ | ⟨-, -, h⟩
    · exact absurd h hj.2.1
    · exact absurd h hj.2.2
    · rw [h]; exact ⟨rfl, rfl⟩
  · rw [serveIdle_rejected hc]
    exact ⟨rfl, rfl⟩

theorem HostRun.busy {s t : State} (h : HostRun s t) (hb : s.busy = false) : t.busy = false := by
  obtain ⟨_, is, _, _, _, -, -, -, rfl⟩ := h
  exact serveAll_busy hb

theorem serveAll_inner {is : List Instr} (h : ∀ j ∈ is, InnerRequest j) {s : State} (hb : s.busy = false) :
    (serveAll is s).lstate = s.lstate ∧ (serveAll is s).host = s.host :=
  serveAll_rel (R := fun s t => t.lstate = s.lstate ∧ t.host = s.host) (fun _ => ⟨rfl, rfl⟩)
    (fun h1 h2 => ⟨h2.1.trans h1.1, h2.2.trans h1.2⟩) (fun j hj s => serveIdle_inner (h j hj) s) hb

theorem failedCheck_init {l : LState} (h : failedCheck l .init = none) : l = .uninit := by
  simpa [failedCheck] using h

theorem failedCheck_detach {l : LState} (h : failedCheck l .detach = none) : l = .ready := by
  simpa [failedCheck, needsReady] using h

theorem running_eq_some {s : State} {i : Instr} (h : running s = some i) : decodeRequest s.req = .ok i := by
  unfold running at h
  split at h <;> cases h
  assumption

/-- `LSTATE` was `l` and is as before in `t`, or the completion of INIT or DETACH moved it (R102, R113). -/
def LStateMove (l : LState) (t : State) : Prop :=
  t.lstate = l ∨
  (l = .uninit ∧ t.lstate = .ready ∧ t.req = 0x3000#16 ∧ t.busy = false ∧ t.err = .noError) ∨
  (l = .ready ∧ t.lstate = .off ∧ t.req = 0x9000#16 ∧ t.busy = false ∧ t.err = .noError ∧ t.host = none)

/-- The completion of a request that passed its checks. -/
theorem complete_lstateMove {i : Instr} {s : State} {l : LState} (hl : s.lstate = l)
    (hc : failedCheck l i = none) (hw : requestWord i = s.req) : LStateMove l (complete i s) := by
  rcases complete_cases i s with ⟨rfl, he⟩ | ⟨rfl, he⟩ | ⟨-, -, he⟩ <;> rw [he]
  · exact .inr (.inl ⟨failedCheck_init hc, rfl, hw.symm, rfl, rfl⟩)
  · exact .inr (.inr ⟨failedCheck_detach hc, rfl, hw.symm, rfl, rfl, rfl⟩)
  · exact .inl hl

theorem serveIdle_lstateMove (i : Instr) (s : State) : LStateMove s.lstate (serveIdle i s) := by
  rcases hc : failedCheck s.lstate i with _ | c
  · rw [serveIdle_ran hc]
    exact complete_lstateMove rfl hc rfl
  · rw [serveIdle_rejected hc]
    exact .inl rfl

/-- R20 over a tick of a good request. -/
theorem RunningOk.tick_lstateMove {s : State} {i : Instr} (h : RunningOk s i) :
    LStateMove s.lstate (engineTick s) := by
  rcases engineTick_cases s with ⟨-, he⟩ | ⟨-, he⟩ | ⟨-, _, _, -, he⟩ | ⟨-, _, -, -, he⟩ | ⟨-, _, -, -, he⟩ |
    ⟨-, -, he⟩ <;> rw [he]
  case inr.inr.inr.inr.inr =>
    rw [completeCurrent_eq h.latched]
    exact complete_lstateMove rfl h.admitted (requestWord_of_decodeRequest (running_eq_some h.latched))
  all_goals exact .inl rfl

/-- R20 over every effect but a successful ACQ. -/
theorem StepEffect.lstateMove_or {u t : State} (h : StepEffect u t) (hrun : u.busy = true → ∃ i, RunningOk u i) :
    LStateMove u.lstate t ∨ (u.lstate = .off ∧ t = Machine.acquire u) := by
  cases h with
  | acquire ho => exact .inr ⟨ho, rfl⟩
  | tick hb =>
    obtain ⟨i, hi⟩ := hrun hb
    exact .inl hi.tick_lstateMove
  | request i => exact .inl (serveIdle_lstateMove i u)
  | host hb h =>
    obtain ⟨_, is, _, _, _, -, hin, -, rfl⟩ := h
    exact .inl (.inl (serveAll_inner hin hb).1)
  | stay | rejectAcq | start | rejectWord => exact .inl (.inl rfl)

/-- What a request looks at does not include the ports. -/
theorem RunningOk.withPorts {s : State} {i : Instr} (h : RunningOk s i) (a : Option Bool) (v : Bool) (w : ReqWord)
    (k : Nat) (is : List Input) : RunningOk (Machine.withPorts a v w k is s) i := { h with }

end Sys2Proof.Machine
end

section
/-! PROOFS. The invariant of the whole machine over every effect (Safety.lean). -/

namespace Sys2Proof.Machine

/-! ### The invariant -/

/-- The clauses of the invariant that hold in the middle of a request as well as outside it. -/
structure State.Steady (s : State) : Prop where
  host_wf : ∀ h, s.host = some h → h.Wf
  inst_oe : s.inst = s.oe
  rw_low : level s.lines .rw = false
  err_sticky : s.err ≠ .noError → s.sticky = true
  replayed : replay 0x00#8 s.trace = s.lines

/-- The invariant but for its clause on the host's wait. -/
structure State.Good (s : State) : Prop extends s.Steady where
  idle_en : s.busy = false → level s.lines .en = false
  busy_runs : s.busy = true → ∃ i, RunningOk s i

/-- Between two requests: EN is low. -/
structure State.Rest (s : State) : Prop extends s.Steady where
  en_low : level s.lines .en = false

theorem State.Rest.good {s : State} (h : s.Rest) (hb : s.busy = false) : s.Good :=
  { h with
    idle_en := fun _ => h.en_low
    busy_runs := fun h0 => absurd h0 (by simp [hb]) }

theorem State.Good.rest {s : State} (h : s.Good) (hb : s.busy = false) : s.Rest := { h with en_low := h.idle_en hb }

/-- The lines driven by micro-operations that leave RW alone. -/
theorem State.Steady.drive {s : State} (h : s.Steady) {ops : List MicroOp} (hrw : ∀ v, .setLine .rw v ∉ ops) :
    State.Steady { s with lines := replay s.lines (eventsOf ops), trace := s.trace ++ eventsOf ops } :=
  { h with
    rw_low := (level_replay_of_not_mem _ _ _ hrw).trans h.rw_low
    replayed := by simp only [replay_append, h.replayed] }

theorem State.Rest.raiseError {s : State} (h : s.Rest) (c : Cause) : (raiseError c s).Rest :=
  { h with err_sticky := fun _ => rfl }

/-- Completion of a request that passed its checks (R88, R102, R113). -/
theorem State.Rest.complete {s : State} {i : Instr} (h : s.Rest) (hc : failedCheck s.lstate i = none) :
    (complete i s).Rest := by
  rcases complete_cases i s with ⟨rfl, he⟩ | ⟨rfl, he⟩ | ⟨-, -, he⟩ <;> rw [he]
  · have hoe : s.oe = true := by rw [State.oe, failedCheck_init hc]; rfl
    exact { h with err_sticky := nofun, inst_oe := h.inst_oe.trans hoe }
  · exact
      { h with
        host_wf := nofun
        inst_oe := rfl
        err_sticky := nofun
        replayed := by simp [replay_append, h.replayed, levelsAfter] }
  · exact { h with err_sticky := nofun }

theorem State.Rest.serveIdle {s : State} (h : s.Rest) (i : Instr) : (serveIdle i s).Rest := by
  rcases hc : failedCheck s.lstate i with _ | c
  · rw [serveIdle_ran hc]
    have hd := h.drive (setRw_not_mem_microProgram s.cfg i)
    refine State.Rest.complete { hd with en_low := ?_ } hc
    rw [level_en_replay, h.en_low, enAfter_microProgram]
  · rw [serveIdle_rejected hc]
    exact { h with err_sticky := fun _ => rfl }

theorem State.Rest.withInst {s : State} (h : s.Rest) {inst inst' : DevInst} (hh : s.host = some inst)
    (hw : inst'.Wf) : (withInst inst' s).Rest :=
  { h with
    host_wf := by rintro _ ⟨⟩; exact hw
    inst_oe := by
      have := h.inst_oe
      rw [State.inst, hh] at this
      exact this }

theorem State.Rest.hostRun {s t : State} (h : s.Rest) (hb : s.busy = false) (hr : HostRun s t) : t.Rest := by
  obtain ⟨inst, is, inst', ds, rs, hh, hin, hw, rfl⟩ := hr
  have hall : (serveAll is s).Rest :=
    serveAll_rel (R := fun s t => s.Rest → t.Rest) (fun _ => id) (fun h1 h2 => h2 ∘ h1)
      (fun i _ s hs => hs.serveIdle i) hb h
  exact { hall.withInst ((serveAll_inner hin hb).2.trans hh) (hw (h.host_wf inst hh)) with }

theorem rest_acquire (s : State) : (acquire s).Rest where
  host_wf := by rintro _ ⟨⟩; exact DevInst.wf_fresh
  inst_oe := rfl
  rw_low := by simp [acquiredLevels]; rfl
  err_sticky := nofun
  replayed := by simp [replay_append, levelsAfter]
  en_low := by simp [acquiredLevels]; rfl

/-! A request that runs. -/

/-- A tick of a good request: its `Wait` is held, its micro-operation is done, or it completes. -/
theorem RunningOk.tick_cases {s : State} {i : Instr} (h : RunningOk s i) :
    (∃ n t, (microProgram s.cfg i)[s.seqPc.toNat]? = some (.wait t) ∧ engineTick s = { s with dly := n }) ∨
    (∃ op, (microProgram s.cfg i)[s.seqPc.toNat]? = some op ∧ (perform op s).dly = 0 ∧ engineTick s = perform op s) ∨
    ((microProgram s.cfg i)[s.seqPc.toNat]? = none ∧ engineTick s = complete i s) := by
  rw [← currentProgram_eq h.latched]
  rcases engineTick_cases s with ⟨hd, he⟩ | ⟨hd, he⟩ | ⟨hd, l, v, hp, he⟩ | ⟨-, t, hp, -, he⟩ | ⟨-, t, hp, -, he⟩ |
    ⟨-, hp, he⟩
  · obtain ⟨t, ht⟩ := h.waiting (by omega)
    exact .inl ⟨_, t, (currentProgram_eq h.latched).symm ▸ ht, he⟩
  · obtain ⟨t, ht⟩ := h.waiting (by omega)
    rw [← currentProgram_eq h.latched] at ht
    exact .inr (.inl ⟨_, ht, rfl, by rw [he, waitEvents_eq ht]; rfl⟩)
  · exact .inr (.inl ⟨_, hp, hd, he⟩)
  · exact .inl ⟨_, t, hp, he⟩
  · exact .inr (.inl ⟨_, hp, rfl, he⟩)
  · exact .inr (.inr ⟨hp, he.trans (completeCurrent_eq h.latched)⟩)

theorem RunningOk.hold {s : State} {i : Instr} (h : RunningOk s i) {t : Nat}
    (hp : (microProgram s.cfg i)[s.seqPc.toNat]? = some (.wait t)) (n : Nat) : RunningOk { s with dly := n } i :=
  { h with waiting := fun _ => ⟨t, hp⟩ }

/-- A micro-operation done, in one form for both kinds. -/
theorem perform_eq_drive (op : MicroOp) (s : State) :
    perform op s = { s with
      dly := (perform op s).dly, seqPc := s.seqPc + 1#8
      lines := replay s.lines (eventsOf [op]), trace := s.trace ++ eventsOf [op] } := by cases op <;> rfl

theorem RunningOk.perform {s : State} {i : Instr} (h : RunningOk s i) {op : MicroOp}
    (hp : (microProgram s.cfg i)[s.seqPc.toNat]? = some op) (hd : (perform op s).dly = 0) :
    RunningOk (perform op s) i := by
  obtain ⟨hpc, hle⟩ := toNat_seqPc_succ hp
  rw [perform_eq_drive, hd]
  exact
    { latched := h.latched
      admitted := h.admitted
      inside := hpc ▸ hle
      en_level := by simp only [hpc]; exact level_en_take_succ hp h.en_level
      waiting := fun h0 => absurd rfl h0 }

/-- At the end of its micro-program EN is low (R82). -/
theorem RunningOk.en_low_at_end {s : State} {i : Instr} (h : RunningOk s i)
    (hp : (microProgram s.cfg i)[s.seqPc.toNat]? = none) : level s.lines .en = false := by
  rw [h.en_level, List.take_of_length_le (List.getElem?_eq_none_iff.1 hp), enAfter_microProgram]

theorem State.Good.tick {s : State} (h : s.Good) (hb : s.busy = true) : (engineTick s).Good := by
  obtain ⟨i, hi⟩ := h.busy_runs hb
  have busy {t : State} (ht : t.Steady) (hb : t.busy = true) (hr : RunningOk t i) : t.Good :=
    { ht with
      idle_en := fun h0 => absurd hb (by simp [h0])
      busy_runs := fun _ => ⟨i, hr⟩ }
  rcases hi.tick_cases with ⟨n, t, hp, he⟩ | ⟨op, hp, hd, he⟩ | ⟨hp, he⟩ <;> rw [he]
  · exact busy { h with } hb (hi.hold hp n)
  · have hrw (v : Bool) : MicroOp.setLine .rw v ∉ [op] := fun hv =>
      setRw_not_mem_microProgram s.cfg i v (List.mem_singleton.1 hv ▸ List.mem_of_getElem? hp)
    refine busy ?_ (by simpa using hb) (hi.perform hp hd)
    rw [perform_eq_drive]
    exact { h.drive hrw with }
  · have hrest : s.Rest := { h with en_low := hi.en_low_at_end hp }
    exact (hrest.complete hi.admitted).good rfl

/-- A request that is accepted stands at the start of its micro-program. -/
theorem State.Rest.start {s : State} (h : s.Rest) {i : Instr} {w : ReqWord} (hd : decodeRequest w = .ok i)
    (hc : failedCheck s.lstate i = none) : (accept w s).Good :=
  { h with
    idle_en := nofun
    busy_runs := fun _ => ⟨i,
      { latched := by simp [running, hd]
        admitted := hc
        inside := Nat.zero_le _
        en_level := h.en_low
        waiting := fun h0 => absurd rfl h0 }⟩ }

theorem StepEffect.good {u t : State} (he : StepEffect u t) (h : u.Good) : t.Good := by
  cases he with
  | stay => exact h
  | tick hb => exact h.tick hb
  | acquire => exact (rest_acquire u).good rfl
  | rejectAcq c hb => exact ((h.rest hb).raiseError c).good rfl
  | start i w hb hd hc => exact (h.rest hb).start hd hc
  | rejectWord c w hb => exact State.Rest.good { h.rest hb with err_sticky := fun _ => rfl } rfl
  | request i _ hb => exact ((h.rest hb).serveIdle i).good (serveIdle_busy i u)
  | host hb hr => exact ((h.rest hb).hostRun hb hr).good (hr.busy hb)

/-! The host's wait. -/

/-- The ports and the host's wait are as the change of ports leaves them. -/
theorem StepEffect.keepsWait {u t : State} (h : StepEffect u t) :
    t.hostWait = u.hostWait ∧ t.reqValid = u.reqValid := by
  cases h with
  | tick => exact ⟨(engineTick_tickKept u).hostWait, (engineTick_tickKept u).reqValid⟩
  | request i => exact ⟨(serveIdle_portsKept i u).hostWait, (serveIdle_portsKept i u).reqValid⟩
  | host hb h =>
    obtain ⟨_, is, _, _, _, -, -, -, rfl⟩ := h
    exact ⟨(serveAll_portsKept is hb).hostWait, (serveAll_portsKept is hb).reqValid⟩
  | stay | acquire | rejectAcq | start | rejectWord => exact ⟨rfl, rfl⟩

theorem takeAcq_busy (ok : Bool) (s : State) : (takeAcq ok s).busy = false := by
  rcases takeAcq_cases ok s with ⟨-, h⟩ | ⟨-, -, h⟩ | ⟨-, -, h⟩ <;> rw [h] <;> rfl

/-- The attach procedure puts nothing on the port; its INIT comes after the wait (R114). -/
theorem attach_quiet (ok : Bool) (s : State) : (attach ok s).busy = false ∧ (attach ok s).reqValid = s.reqValid := by
  rcases attach_cases ok s with ⟨-, -, h⟩ | ⟨-, h⟩ <;> rw [h]
  · exact ⟨rfl, rfl⟩
  · exact ⟨takeAcq_busy ok s, by rcases takeAcq_cases ok s with ⟨-, h⟩ | ⟨-, -, h⟩ | ⟨-, -, h⟩ <;> rw [h] <;> rfl⟩

/-- While the host waits no step brings a request to the Engine (R13, R114). -/
theorem step_wait_quiet {s t : State} (hq : s.hostWait ≠ 0 → s.busy = false ∧ s.reqValid = false)
    (h : step s = .next t) (hw : t.hostWait ≠ 0) : t.busy = false ∧ t.reqValid = false := by
  rcases step_cases h with ⟨ok, rest, -, -, rfl⟩ | ⟨w, rest, -, -, h0, rfl⟩ | ⟨hb, rfl⟩ | ⟨ok, hb, -, rfl⟩ |
    ⟨hb, -, hv, rfl⟩ | ⟨hb, -, hv, -, rfl⟩ | ⟨c, rest, ⟨hb, -, -, h0⟩, -, hc⟩ | ⟨ok, rest, ⟨-, -, hv, -⟩, -, rfl⟩ |
    ⟨m, rest, ⟨hb, -, hv, -⟩, -, rfl⟩ | ⟨-, rfl⟩
  · exact hq hw
  · exact absurd h0 hw
  · rw [(engineTick_tickKept s).hostWait] at hw
    exact absurd hb (by simp [(hq hw).1])
  · obtain ⟨h1, h2⟩ := (takeAcq_effect ok (u := { s with acq := none }) hb).keepsWait
    exact ⟨takeAcq_busy ok _, h2.trans (hq (h1 ▸ hw)).2⟩
  · rw [(acceptPort_effect hb).keepsWait.1] at hw
    exact absurd hv (by simp [(hq hw).2])
  · exact ⟨hb, hv⟩
  · exact absurd ((runCall_effect (s := { s with inputs := rest }) hb hc).keepsWait.1.trans h0) hw
  · exact ⟨(attach_quiet ok _).1, (attach_quiet ok _).2.trans hv⟩
  · exact ⟨hb, hv⟩
  · exact hq hw

end Sys2Proof.Machine
end

section
/-! PROOFS. The statements on the state and its invariants, settled. -/

namespace Sys2Proof.Machine

/-- `STATUS` is its fields, bit for bit. -/
theorem status_fields (err : BitVec 4) (sticky busy : Bool) (lstate : BitVec 2) :
    let w : BitVec 16 := 0#8 ++ err ++ bit1 sticky ++ lstate ++ bit1 busy
    w.getLsbD 0 = busy ∧ w.extractLsb' 1 2 = lstate ∧ w.getLsbD 3 = sticky ∧ w.extractLsb' 4 4 = err ∧
      w.extractLsb' 8 8 = 0#8 := by
  revert err lstate sticky busy
  decide +kernel

/-- Settles O41: the effects of a step, one of them a successful ACQ, two the completions of INIT and DETACH. -/
theorem lifecycleTransitions : Obligations.LifecycleTransitions := by
  refine ⟨rfl, rfl, rfl, rfl, fun s t hs h hne => ?_⟩
  obtain ⟨a, v, w, k, is, he⟩ := step_effect h
  have hrun : s.busy = true → ∃ i, RunningOk (withPorts a v w k is s) i := fun hb =>
    (hs.busy_runs hb).imp fun i hi => hi.withPorts a v w k is
  rcases he.lstateMove_or hrun with (hl | hinit | hdetach) | ⟨ho, rfl⟩
  · exact absurd hl hne
  · exact .inr (.inl hinit)
  · exact .inr (.inr hdetach)
  · exact .inl ⟨ho, rfl, rfl⟩

/-- Settles O58: `Good` over the effect of the step, and the host's wait over the step itself. -/
theorem stepKeepsTheInvariant : Obligations.StepKeepsTheInvariant := by
  intro s t hs h
  obtain ⟨a, v, w, k, is, he⟩ := step_effect h
  have hg : (withPorts a v w k is s).Good :=
    { hs with busy_runs := fun hb => (hs.busy_runs hb).imp fun i hi => hi.withPorts a v w k is }
  exact { he.good hg with wait_quiet := step_wait_quiet hs.wait_quiet h }

/-- Settles O11: the step is a tick. -/
theorem busyEngineTakesNothing : Obligations.BusyEngineTakesNothing := by
  intro s hb hd
  have hk := engineTick_tickKept s
  exact ⟨_, step_busy hb hd, hk.req, hk.reqValid, hk.reqWord, hk.acq, hk.inputs, hk.diag, hk.sticky, hk.replies⟩

/-- Settles O14: a rejected word ends at once both ways; an accepted one runs to `drain`, which the call gives. -/
theorem portRunEqualsSynchronousCall : Obligations.PortRunEqualsSynchronousCall := by
  intro s hb ha hv hi
  have hstep := step_port hb ha hv (deliver_nil hi)
  set s₀ : State := { s with reqValid := false } with hs₀
  have hidle : drain s₀ = s₀ := drain_idle hb
  -- the call of the word, and a run to the same state
  suffices h : ∃ t, Reaches (acceptPort s) t ∧ t.busy = false ∧ runCall (.request s.reqWord) s₀ = .next t by
    obtain ⟨t, hr, ht⟩ := h
    obtain ⟨n, hn⟩ := hr.step hstep
    exact ⟨n, t, hn, ht⟩
  rcases hdec : decodeRequest s.reqWord with r | i
  · refine ⟨acceptPort s, .refl _, ?_, ?_⟩
    · simp [acceptPort, hdec]
    · simp [runCall, decode, acceptPort, hdec, rejectWord, hidle, ← hs₀]
  · have hr := decodeRequest_isRequest hdec
    have hw := requestWord_of_decodeRequest hdec
    have hcall : runCall (.request s.reqWord) s₀ = .next (serveIdle i s₀) := by
      simp [runCall, decode, hdec, exec_request hr, serve, hidle]
    refine ⟨serveIdle i s₀, ?_, serveIdle_busy i s₀, hcall⟩
    rcases hc : failedCheck s.lstate i with _ | c
    · rw [serveIdle_eq_drain (s := s₀) hr hc, hw, acceptPort_start hdec hc]
      exact reaches_drain rfl hi
    · have hp : acceptPort s = serveIdle i s₀ := by simp [acceptPort, serveIdle, hdec, hc, hw, hs₀]
      rw [hp]
      exact .refl _

/-- Settles O15, by induction on what is left of the micro-program. -/
theorem runningRequestCompletes : Obligations.RunningRequestCompletes := fun s hb hi =>
  ⟨reaches_drain hb hi, drain_busy s, fun i => exec_drain i s⟩

/-- Settles O42: only a successful ACQ is no `StickyKept`. -/
theorem stickyUntilSuccessfulAcq : Obligations.StickyUntilSuccessfulAcq := by
  refine ⟨rfl, fun s t h => ?_⟩
  obtain ⟨a, v, w, k, is, he⟩ := step_effect h
  rcases he.stickyKept_or with ⟨⟨ds, hd, hr⟩, hs⟩ | ⟨ho, rfl⟩
  · have hdrop : t.diag.drop s.diag.length = ds := by rw [hd]; exact List.drop_left
    refine ⟨fun hc => hr (hdrop ▸ hc), fun h1 h0 => ?_⟩
    rw [hs h1] at h0
    cases h0
  · have hdrop : (acquire (withPorts a v w k is s)).diag.drop s.diag.length = [] := List.drop_length
    refine ⟨fun ⟨c, hc⟩ => ?_, fun _ _ => ⟨ho, rfl, rfl⟩⟩
    rw [hdrop] at hc
    cases hc

/-- Settles O12: the step accepts the word on the port, and no check stops it. -/
theorem portAcceptanceLatchesTheWord : Obligations.PortAcceptanceLatchesTheWord := by
  rintro s i ⟨hb, ha, hv, hd⟩ hdec hc
  rw [step_port hb ha hv hd, acceptPort_start hdec hc]
  rfl

/-- Settles O35: every element as `State.reset` has it. -/
theorem powerOnState : Obligations.PowerOnState :=
  ⟨rfl, rfl, rfl, rfl, rfl, rfl, rfl, rfl, rfl, rfl, rfl⟩

/-- Settles O36: the fields of the concatenation, and the table of codes. -/
theorem statusLayout : Obligations.StatusLayout :=
  ⟨fun s => status_fields s.err.code s.sticky s.busy s.lstate.code, rfl⟩

/-- Settles O57: the machine is idle, in OFF, with no device and every line low. -/
theorem powerOnMeetsTheInvariant : Obligations.PowerOnMeetsTheInvariant where
  host_wf := nofun
  inst_oe := rfl
  rw_low := rfl
  err_sticky h := absurd rfl h
  replayed := rfl
  idle_en _ := rfl
  busy_runs := nofun
  wait_quiet h := absurd rfl h

end Sys2Proof.Machine
end

section
/-! PROOFS. Where `BUF` is indexed (20_memory.md R49): the two commands that index it, and every stop a step can come
to. -/

namespace Sys2Proof.Machine

/-- With `LEN` inside the buffer the write path stores each byte inside it, up to the end of the bytes or `LEN` = 32. -/
theorem writePlan_ok {pol : RowPolicy} {bs : List Byte} {h : DevInst} (hl : h.len.toNat ≤ 32) :
    ∃ p, writePlan pol bs h = .ok p := by
  induction bs generalizing h with
  | nil => exact ⟨_, rfl⟩
  | cons b bs ih =>
    by_cases hfull : h.len = 32#6
    · exact ⟨⟨h, [], true⟩, by rw [writePlan, if_pos hfull]⟩
    · have hlt : h.len.toNat < 32 := lt_of_le_of_ne hl fun e => hfull (BitVec.eq_of_toNat_eq e)
      -- the rest, behind requests `is`, on a device one byte longer
      have rest (is : List Instr) {h' : DevInst} (hn : h'.len = h.len + 1#6) :
          ∃ p, WritePlan.after is (writePlan pol bs h') = .ok p := by
        obtain ⟨q, hq⟩ := ih (h := h') (by rw [hn, BitVec.toNat_add]; simp; omega)
        exact ⟨_, by rw [hq]; rfl⟩
      simp only [writePlan, if_neg hfull, appendByte_ok hlt, appendByte_ok (h := nextRow h) hlt]
      split
      · exact rest _ rfl
      · split <;> exact rest _ rfl

/-- With `LEN` over 32 the first byte is stored outside the buffer. -/
theorem writePlan_fault {pol : RowPolicy} {b : Byte} {bs : List Byte} {h : DevInst} (hl : 32 < h.len.toNat) :
    writePlan pol (b :: bs) h = .error .bufIndex := by
  have hfull : h.len ≠ 32#6 := fun e => by simp [e] at hl
  have hstore (h₁ : DevInst) (he : h₁.len = h.len) : appendByte b h₁ = .error .bufIndex :=
    appendByte_fault (he ▸ hl.le)
  simp [writePlan, hfull, hstore h rfl, hstore (nextRow h) rfl]

/-- Settles O54: the read runs past the end of `BUF`, and the first byte written is stored behind it. -/
theorem bufferIndexFault : Obligations.BufferIndexFault := by
  intro s h hb hh hl
  refine ⟨?_, fun b bs => ?_⟩
  · have hr : memReadFrom h.buf 0 h.len.toNat = .error .bufIndex :=
      memReadFrom_fault (by omega) (by simpa [capacity] using hl)
    rw [exec, execReadValue, dispatch_some hb hh, hr]
  · rw [exec, execWriteValue, dispatch_some hb hh, writeLoop_eq _ _ hb, writePlan_fault hl]

/-- Every host command is dispatched (R143), and what is dispatched does not stop where `LEN` is inside the buffer: only
READ_VALUE and WRITE_VALUE index `BUF`. -/
theorem exec_eq_dispatch {i : Instr} (hi : i.isRequest = false) :
    ∃ k, (∀ s, exec i s = dispatch k s) ∧
      ∀ (h : DevInst) (s : State), s.busy = false → h.len.toNat ≤ 32 → ∃ t, k h s = .next t := by
  unfold exec
  cases i with
  | writeNibble | writeByte | init | clearScreen | cursorReturn | shift | setCursorRow | setBacklight | detach =>
    cases hi
  | writeValue bytes =>
    refine ⟨_, fun _ => rfl, fun h s hb hl => ?_⟩
    obtain ⟨p, hp⟩ := writePlan_ok (pol := s.cfg.rowOverflow) (bs := bytes) hl
    exact ⟨p.run s, by rw [writeLoop_eq _ _ hb, hp]⟩
  | readValue =>
    refine ⟨_, fun _ => rfl, fun h s _ hl => ?_⟩
    have hr := memReadFrom_ok (m := h.buf) (i := 0) (n := h.len.toNat) (by simpa [capacity] using hl)
    exact ⟨_, by rw [hr]⟩
  | hostClearScreen | backlightOn | backlightOff | hostShift | hostCursorReturn | hostUnrecognized =>
    exact ⟨_, fun _ => rfl, fun _ _ _ _ => ⟨_, rfl⟩⟩

/-- Every stop of an instruction on an idle Engine with R118: a host command with no device. -/
theorem exec_next_or_refused {i : Instr} {s : State} (hb : s.busy = false) (hw : ∀ h, s.host = some h → h.Wf) :
    (∃ t, exec i s = .next t) ∨ (exec i s = .refused .noInstance ∧ s.inst = false) := by
  rcases hi : i.isRequest with _ | _
  · obtain ⟨k, hk, hnext⟩ := exec_eq_dispatch hi
    rw [hk]
    rcases hh : s.host with _ | h
    · exact .inr ⟨dispatch_none hb hh, by simp [State.inst, hh]⟩
    · rw [dispatch_some hb hh]
      exact .inl (hnext h s hb (hw h hh).len_le)
  · exact .inl ⟨_, exec_request hi s⟩

/-- What a call comes to (R135, R146): its instruction runs, a word that is no request is rejected, or a malformed
payload is refused. -/
theorem runCall_outcome (c : Code) (s : State) :
    (∃ i, runCall c s = exec i s) ∨ (∃ w r, runCall c s = .next (rejectWord w r s)) ∨
      runCall c s = .refused .malformedPayload := by
  unfold runCall
  split
  · exact .inl ⟨_, rfl⟩
  · split
    · exact .inr (.inl ⟨_, _, rfl⟩)
    · exact .inr (.inr rfl)

/-- Only a call of the host can keep a step from answering a next state. -/
theorem step_next_or_call (s : State) :
    (∃ t, step s = .next t) ∨ ∃ c rest, s.busy = false ∧ step s = runCall c { s with inputs := rest } := by
  unfold step stepOnce
  split
  · exact .inl ⟨_, rfl⟩
  · split
    · exact .inl ⟨_, rfl⟩
    · rename_i hb
      split
      · exact .inl ⟨_, rfl⟩
      · split
        · exact .inl ⟨_, rfl⟩
        · split
          · exact .inl ⟨_, rfl⟩
          · unfold runInput
            split
            case h_1 c rest _ => exact .inr ⟨c, rest, by simpa using hb, rfl⟩
            all_goals exact .inl ⟨_, rfl⟩

/-- Settles O59: the step answers a next state or is a call, whose instruction stops only where there is no device. -/
theorem goodStatesDoNotFault : Obligations.GoodStatesDoNotFault := by
  intro s hs
  rcases step_next_or_call s with hn | ⟨c, rest, hb, hstep⟩
  · exact .inl hn
  rw [hstep]
  rcases runCall_outcome c { s with inputs := rest } with ⟨i, h⟩ | ⟨w, r, h⟩ | h <;> rw [h]
  · rcases exec_next_or_refused (i := i) (s := { s with inputs := rest }) hb hs.host_wf with hn | hr
    · exact .inl hn
    · exact .inr (.inl hr)
  · exact .inl ⟨_, rfl⟩
  · exact .inr (.inr rfl)

end Sys2Proof.Machine
end

section
/-! PROOFS. The encoder and the decoder as a pair: host commands under their code map (30_encoding.md R71, R72), and
the three outcomes of a request word (R69). -/

namespace Sys2Proof.Machine

open Sys2Proof.Claims

/-! Host commands. -/

/-- A command without a payload that decodes has none to lose. -/
theorem encode_of_withoutPayload {m : HostCodeMap} {hc : Byte} {payload : List Byte} {i j : Instr}
    (h : withoutPayload j payload = .ok i) (he : encode m j = .command hc []) (hw : j.wf m) :
    encode m i = .command hc payload ∧ i.wf m := by
  unfold withoutPayload at h
  split at h
  · rename_i hp
    cases h
    exact ⟨hp ▸ he, hw⟩
  · cases h

/-- R72: the reserved bits 7:2 of a SHIFT payload are 0 exactly in what the encoder writes. -/
theorem shiftPayload_byte_eq_fields (b : Byte) (h : b &&& 0xFC#8 = 0#8) :
    0#6 ++ bit1 (ShiftTarget.ofBit (b.getLsbD 1)).bit ++ bit1 (ShiftDir.ofBit (b.getLsbD 0)).bit = b := by
  revert b
  decide +kernel

theorem shiftPayload_fields (tgt : ShiftTarget) (dir : ShiftDir) :
    shiftPayload [0#6 ++ bit1 tgt.bit ++ bit1 dir.bit] = .ok (.hostShift tgt dir) := by
  cases tgt <;> cases dir <;> rfl

theorem eq_fields_of_shiftPayload {payload : List Byte} {i : Instr} (h : shiftPayload payload = .ok i) :
    ∃ tgt dir, i = .hostShift tgt dir ∧ payload = [0#6 ++ bit1 tgt.bit ++ bit1 dir.bit] := by
  unfold shiftPayload at h
  split at h
  · rename_i b
    split at h
    · cases h
    · rename_i hb
      cases h
      exact ⟨_, _, rfl, by rw [shiftPayload_byte_eq_fields b (by simpa using hb)]⟩
  · cases h

/-- Under different codes a command's code is read as that command (R71); the code of an unrecognized command is none of
them (R134). -/
theorem decode_encode_command {m : HostCodeMap} {i : Instr} (hm : m.wf) (hi : i.isRequest = false) (hw : i.wf m) :
    decode m (encode m i) = .ok i := by
  -- each code differs from the codes `decodeCommand` compares it with before its own
  have hne : m.codes.reverse.Nodup := List.nodup_reverse.2 hm
  simp only [HostCodeMap.codes, List.reverse_cons, List.reverse_nil, List.nil_append, List.cons_append,
    List.nodup_cons, List.mem_cons, not_or] at hne
  cases i with
  | writeNibble | writeByte | init | clearScreen | cursorReturn | shift | setCursorRow | setBacklight | detach =>
    cases hi
  | writeValue => simp [encode, decode, decodeCommand]
  | hostShift tgt dir => simp [encode, decode, decodeCommand, hne, shiftPayload_fields]
  | readValue | hostClearScreen | backlightOn | backlightOff | hostCursorReturn =>
    simp [encode, decode, decodeCommand, hne, withoutPayload]
  | hostUnrecognized code payload =>
    simp only [Instr.wf, Instr.wfB, HostCodeMap.codes, List.contains_eq_mem, List.mem_cons, Bool.not_eq_true',
      decide_eq_false_iff_not, not_or] at hw
    simp [encode, decode, decodeCommand, hw]

/-- A command that decodes is written back, code and payload, whatever the code map (R72). -/
theorem encode_of_decodeCommand {m : HostCodeMap} {hc : Byte} {payload : List Byte} {i : Instr}
    (h : decodeCommand m hc payload = .ok i) : encode m i = .command hc payload ∧ i.wf m := by
  unfold decodeCommand at h
  split_ifs at h with hwv hrv hcs hon hoff hsh hcr
  · cases h
    exact ⟨hwv ▸ rfl, rfl⟩
  · exact encode_of_withoutPayload h (hrv ▸ rfl) rfl
  · exact encode_of_withoutPayload h (hcs ▸ rfl) rfl
  · exact encode_of_withoutPayload h (hon ▸ rfl) rfl
  · exact encode_of_withoutPayload h (hoff ▸ rfl) rfl
  · obtain ⟨tgt, dir, rfl, rfl⟩ := eq_fields_of_shiftPayload h
    exact ⟨hsh ▸ rfl, rfl⟩
  · exact encode_of_withoutPayload h (hcr ▸ rfl) rfl
  · cases h
    exact ⟨rfl, by simp [Instr.wf, Instr.wfB, HostCodeMap.codes, *]⟩

/-! Requests. -/

theorem encode_request {i : Instr} (h : i.isRequest = true) (m : HostCodeMap) :
    encode m i = .request (requestWord i) := by
  cases i with
  | writeValue | readValue | hostClearScreen | backlightOn | backlightOff | hostShift | hostCursorReturn
  | hostUnrecognized => cases h
  | _ => rfl

theorem wf_of_isRequest {i : Instr} (h : i.isRequest = true) (m : HostCodeMap) : i.wf m := by
  cases i with
  | hostUnrecognized => cases h
  | _ => rfl

theorem toNat_reqOp (w : ReqWord) : (reqOp w).toNat = opOf w := by
  have := w.isLt
  simp only [reqOp, opOf, BitVec.extractLsb'_toNat, Nat.shiftRight_eq_div_pow]
  omega

/-- R66 and R67: which opcodes have a mask, and which. -/
theorem rsvMask_eq (op : BitVec 4) :
    rsvMask op = if op.toNat = 0 ∨ 0xA ≤ op.toNat then none else some (maskOfR66 op.toNat) := by
  revert op
  decide

/-- Every opcode with a mask has its row in the opcode map (R58). -/
theorem exists_legalRequest {op : BitVec 4} {mask : ReqWord} (h : rsvMask op = some mask) (rs : Bool) (opd : Byte) :
    ∃ i, legalRequest op rs opd = some i := by
  unfold rsvMask at h
  unfold legalRequest
  split at h
  case h_10 => cases h
  all_goals exact ⟨_, rfl⟩

theorem decodeRequest_reservedOpcode {w : ReqWord} (h : opOf w = 0 ∨ 0xA ≤ opOf w) :
    decodeRequest w = .error .reservedOpcode := by
  have hm : rsvMask (reqOp w) = none := by rw [rsvMask_eq, toNat_reqOp, if_pos h]
  rw [decodeRequest, hm]

/-- The mask of an assigned opcode is R66's. -/
theorem rsvMask_reqOp {w : ReqWord} (h0 : opOf w ≠ 0) (hA : opOf w < 0xA) :
    rsvMask (reqOp w) = some (maskOfR66 (opOf w)) := by
  rw [rsvMask_eq, toNat_reqOp, if_neg (by omega)]

theorem decodeRequest_reservedField {w : ReqWord} (h0 : opOf w ≠ 0) (hA : opOf w < 0xA)
    (hr : w &&& maskOfR66 (opOf w) ≠ 0#16) : decodeRequest w = .error .reservedField := by
  simp [decodeRequest, rsvMask_reqOp h0 hA, hr]

theorem exists_decodeRequest {w : ReqWord} (h0 : opOf w ≠ 0) (hA : opOf w < 0xA)
    (hr : w &&& maskOfR66 (opOf w) = 0#16) : ∃ i, decodeRequest w = .ok i := by
  have hm := rsvMask_reqOp h0 hA
  obtain ⟨i, hi⟩ := exists_legalRequest hm (reqRs w) (reqOpd w)
  exact ⟨i, by simp [decodeRequest, hm, hr, hi]⟩

/-! A word that is no request, called or on the port (R146). -/

theorem step_call {s : State} {c : Code} {rest : List Input} (h : AtCall s c rest) :
    step s = runCall c { s with inputs := rest } := by
  obtain ⟨hb, ha, hv, hw, hi⟩ := h
  simp [step, stepOnce, deliver, runInput, hb, ha, hv, hw, hi]

theorem runCall_rejected {s : State} {w : ReqWord} {r : Reject} (hb : s.busy = false)
    (hd : decodeRequest w = .error r) : runCall (.request w) s = .next (rejected s w (Reject.cause r)) := by
  simp only [runCall, decode, hd, rejectWord_idle hb]
  rfl

theorem step_call_rejected {s : State} {w : ReqWord} {rest : List Input} {r : Reject} (h : AtCall s (.request w) rest)
    (hd : decodeRequest w = .error r) : step s = .next (rejected { s with inputs := rest } w (Reject.cause r)) := by
  rw [step_call h]
  obtain ⟨hb, -⟩ := h
  exact runCall_rejected hb hd

theorem step_port_rejected {s : State} {r : Reject} (h : AtPort s) (hd : decodeRequest s.reqWord = .error r) :
    step s = .next (rejected { s with reqValid := false } s.reqWord (Reject.cause r)) := by
  obtain ⟨hb, ha, hv, hn⟩ := h
  rw [step_port hb ha hv hn, acceptPort, hd]
  rfl

end Sys2Proof.Machine
end

section
/-! PROOFS. The statements on the encoding, settled. -/

namespace Sys2Proof.Machine

/-- Settles O1: a request by its word, a host command by its code. -/
theorem decodeOfEncodeIsTheInstruction : Obligations.DecodeOfEncodeIsTheInstruction := by
  intro m i hm hw
  rcases hi : i.isRequest with _ | _
  · exact decode_encode_command hm hi hw
  · rw [encode_request hi]
    exact Laws.RequestWord.all i hi

/-- Settles O2: a word and a command are each written back whole. -/
theorem encodeOfDecodeIsTheCode : Obligations.EncodeOfDecodeIsTheCode := by
  intro m c i h
  cases c with
  | request w =>
    have hi := decodeRequest_isRequest h
    exact ⟨by rw [encode_request hi, requestWord_of_decodeRequest h], wf_of_isRequest hi m⟩
  | command hc payload => exact encode_of_decodeCommand h

/-- Settles O3: the opcode has no mask, the mask meets a 1, or the fields are read and encode to the word. -/
theorem requestDecodingHasThreeOutcomes : Obligations.RequestDecodingHasThreeOutcomes := by
  refine fun w => ⟨decodeRequest_reservedOpcode, fun ⟨h0, hA⟩ => decodeRequest_reservedField h0 hA,
    fun ⟨h0, hA⟩ hr => ?_⟩
  obtain ⟨i, hi⟩ := exists_decodeRequest h0 hA hr
  exact ⟨i, hi, decodeRequest_isRequest hi, requestWord_of_decodeRequest hi⟩

/-- Settles O7: called or on the port, the word decodes to no request. -/
theorem reservedOpcodeIsRejected : Obligations.ReservedOpcodeIsRejected :=
  ⟨fun _ _ _ hs h => step_call_rejected hs (decodeRequest_reservedOpcode h),
    fun _ hs h => step_port_rejected hs (decodeRequest_reservedOpcode h), rfl⟩

/-- Settles O8: decoding, which finds the reserved bit, comes before every check of the state. -/
theorem reservedFieldIsRejected : Obligations.ReservedFieldIsRejected :=
  ⟨fun _ _ _ hs h0 hA hr => step_call_rejected hs (decodeRequest_reservedField h0 hA hr),
    fun _ hs h0 hA hr => step_port_rejected hs (decodeRequest_reservedField h0 hA hr)⟩

/-- Settles O4: the eleven samples, each decoded by evaluation. -/
theorem sampleWordsDecode : Obligations.SampleWordsDecode := by
  unfold Obligations.SampleWordsDecode
  decide

end Sys2Proof.Machine
end

section
/-! PROOFS. The Line Driver by steps: a `SetLine` is one, a `Wait` loads `DLY` and counts it down (40_line_driver.md
R79, R80). -/

namespace Sys2Proof.Machine

theorem currentProgram_of_decodeRequest {s : State} {i : Instr} (h : decodeRequest s.req = .ok i) :
    currentProgram s = microProgram s.cfg i := currentProgram_eq (by simp [running, h])

/-! No `Wait` of a micro-program is empty (R80). -/

@[simp] theorem waitZero_not_mem_nibbleOps (n : Nibble) (rs : Bool) : .wait 0 ∉ nibbleOps n rs := by
  simp [nibbleOps, strobeOps, tEnHigh, tLatch]

@[simp] theorem waitZero_not_mem_settledCommandOps (b : Byte) : .wait 0 ∉ settledCommandOps b := by
  simp [settledCommandOps, commandOps, byteOps, tSettle]

theorem waitZero_not_mem_microProgram (c : Config) (i : Instr) : .wait 0 ∉ microProgram c i := by
  cases i <;> simp [microProgram, detachOps, initOps, commandOps, byteOps, tInit1, tInit2, tInit3]

/-! `ceil(t / T_TICK)` is the least number of ticks not shorter than `t` (R80). -/

theorem le_ticksFor_mul {c : Config} (h : 0 < c.tickNum) (t : Nat) : t * c.tickDen ≤ ticksFor c t * c.tickNum := by
  have := Nat.lt_div_mul_add (a := t * c.tickDen + (c.tickNum - 1)) h
  rw [ticksFor]
  omega

theorem ticksFor_pos {c : Config} (h : 0 < c.tickNum) {t : Nat} (ht : 0 < t * c.tickDen) : 0 < ticksFor c t :=
  Nat.pos_of_mul_pos_right (ht.trans_le (le_ticksFor_mul h t))

theorem ticksFor_pred_mul_lt {c : Config} (h : 0 < c.tickNum) {t : Nat} (ht : 0 < t * c.tickDen) :
    (ticksFor c t - 1) * c.tickNum < t * c.tickDen := by
  have : ticksFor c t * c.tickNum ≤ t * c.tickDen + (c.tickNum - 1) := Nat.div_mul_le_self ..
  rw [Nat.sub_one_mul]
  omega

/-- A run, then one step more. -/
theorem run_succ_of_step {k : Nat} {s t u : State} (hr : Sys2Proof.core.run k s = .next t) (h : step t = .next u) :
    Sys2Proof.core.run (k + 1) s = .next u := by
  induction k generalizing s with
  | zero =>
    cases hr
    simp [Host.Core.run, show Sys2Proof.core.step t = .next u from h]
  | succ k ih =>
    simp only [Host.Core.run] at hr ⊢
    split at hr
    · simpa only [Host.Core.run] using ih hr
    all_goals cases hr

/-! The tick, by what stands at `seq_pc`. -/

theorem engineTick_setLine {s : State} {l : Line} {v : Bool} (hd : s.dly = 0)
    (hop : (currentProgram s)[s.seqPc.toNat]? = some (.setLine l v)) :
    engineTick s = advance (setLine l v s) := by
  simp [engineTick, hd, hop]

/-- A `Wait` of at least one tick starts by loading `DLY`. -/
theorem engineTick_startWait {s : State} {t : Nat} (hd : s.dly = 0)
    (hop : (currentProgram s)[s.seqPc.toNat]? = some (.wait t)) (ht : 0 < ticksFor s.cfg t) :
    engineTick s = beginWait t s := by
  simp [engineTick, hd, hop, startWait, ht.ne']

/-- A `Wait` with ticks left counts one of them (R19). -/
theorem step_wait {s : State} {n : Nat} (hb : s.busy = true) (hi : s.inputs = []) (hn : 1 < n) :
    step { s with dly := n } = .next { s with dly := n - 1 } := by
  rw [step_busy (s := { s with dly := n }) hb (deliver_nil hi)]
  simp [engineTick, waitTick, Nat.ne_zero_of_lt hn, Nat.not_le.2 hn]

/-- The last tick of a `Wait` ends it (R80). -/
theorem step_wait_end {s : State} {t : Nat} (hb : s.busy = true) (hi : s.inputs = [])
    (hop : (currentProgram s)[s.seqPc.toNat]? = some (.wait t)) :
    step { s with dly := 1 } = .next (endWait [.wait t] s) := by
  have hev : waitEvents { s with dly := 1 } = [.wait t] := waitEvents_eq hop
  rw [step_busy (s := { s with dly := 1 }) hb (deliver_nil hi)]
  simp [engineTick, waitTick, hev, endWait]

/-- After `k + 1` steps of a `Wait`, `k` of its ticks have passed and every line is held (R19, R80). -/
theorem run_wait {s : State} {t k : Nat} (hb : s.busy = true) (hi : s.inputs = []) (hd : s.dly = 0)
    (hop : (currentProgram s)[s.seqPc.toNat]? = some (.wait t)) (hk : k < ticksFor s.cfg t) :
    Sys2Proof.core.run (k + 1) s = .next { s with dly := ticksFor s.cfg t - k } := by
  induction k with
  | zero =>
    refine run_succ_of_step (t := s) rfl ?_
    rw [step_busy hb (deliver_nil hi), engineTick_startWait hd hop hk]
    rfl
  | succ k ih => exact run_succ_of_step (ih (by omega)) (step_wait hb hi (by omega))

/-- One step later than its ticks, the `Wait` has ended. -/
theorem run_wait_end {s : State} {t : Nat} (hb : s.busy = true) (hi : s.inputs = []) (hd : s.dly = 0)
    (hop : (currentProgram s)[s.seqPc.toNat]? = some (.wait t)) (ht : 0 < ticksFor s.cfg t) :
    Sys2Proof.core.run (ticksFor s.cfg t + 1) s = .next (endWait [.wait t] s) := by
  have hlast := run_wait hb hi hd hop (Nat.sub_one_lt_of_lt ht)
  rw [Nat.sub_add_cancel ht, Nat.sub_sub_self ht] at hlast
  exact run_succ_of_step hlast (step_wait_end hb hi hop)

end Sys2Proof.Machine
end

section
/-! PROOFS. What the controller latches (40_line_driver.md R86): of a nibble, of a byte, of every micro-program. -/

namespace Sys2Proof.Machine

open Sys2Proof.Claims

@[simp] theorem latchesFrom_append (L : Byte) (es fs : List PinEvent) :
    latchesFrom L (es ++ fs) = latchesFrom L es ++ latchesFrom (replay L es) fs := by
  induction es generalizing L with
  | nil => rfl
  | cons e es ih => simp [latchesFrom, ih]

@[simp] theorem latchesFrom_nil (L : Byte) : latchesFrom L [] = [] := rfl

@[simp] theorem latchesFrom_wait (L : Byte) (t : Nat) (es : List PinEvent) :
    latchesFrom L (.wait t :: es) = latchesFrom L es := rfl

@[simp] theorem event_wait (t : Nat) : (MicroOp.wait t).event = .wait t := rfl

/-- The data nibble is the levels of D4 to D7 (R40, R86). -/
theorem dataNibble_eq {L : Byte} {v : Nibble} (h4 : level L .d4 = v.getLsbD 0) (h5 : level L .d5 = v.getLsbD 1)
    (h6 : level L .d6 = v.getLsbD 2) (h7 : level L .d7 = v.getLsbD 3) : dataNibble L = v := by
  refine BitVec.eq_of_getLsbD_eq fun k hk => ?_
  rw [dataNibble, BitVec.getLsbD_extractLsb', decide_eq_true hk, Bool.true_and]
  interval_cases k
  · exact h4
  · exact h5
  · exact h6
  · exact h7

/-- A nibble latches itself, once, whatever the lines were (R89). -/
@[simp] theorem latchesFrom_nibbleOps (L : Byte) (v : Nibble) (rs : Bool) :
    latchesFrom L (eventsOf (nibbleOps v rs)) = [⟨rs, v⟩] := by
  simp only [nibbleOps, strobeOps, eventsOf_cons, eventsOf_nil, List.cons_append, List.nil_append, MicroOp.event,
    latchesFrom, levelsAfter, List.append_nil, latchOf, List.cons.injEq, Latch.mk.injEq, and_true]
  constructor
  · simp
  · apply dataNibble_eq <;> simp

/-- A byte latches its two halves, the high one first (R90). -/
@[simp] theorem latchesFrom_byteOps (L : Byte) (b : Byte) (rs : Bool) :
    latchesFrom L (eventsOf (byteOps b rs)) = byteLatches b rs := by
  simp [byteOps, byteLatches, highNibble, lowNibble]

@[simp] theorem latchesFrom_commandOps (L b : Byte) :
    latchesFrom L (eventsOf (commandOps b)) = byteLatches b false := latchesFrom_byteOps ..

@[simp] theorem latchesFrom_settledCommandOps (L b : Byte) :
    latchesFrom L (eventsOf (settledCommandOps b)) = byteLatches b false := by
  simp [settledCommandOps]

/-- INIT latches the handshake's four nibbles and its bytes (R102, R103). -/
theorem latchesFrom_initOps (L : Byte) (emit0C : Bool) :
    latchesFrom L (eventsOf (initOps emit0C)) = latchesOf emit0C .init := by
  cases emit0C <;> simp [initOps] <;> rfl

/-- The latch events of every micro-program, whatever the lines were. -/
theorem latchesFrom_microProgram (L : Byte) (c : Config) (i : Instr) :
    latchesFrom L (eventsOf (microProgram c i)) = latchesOf c.initEmit0C i := by
  cases i with
  | writeNibble rs nib => cases rs <;> exact latchesFrom_nibbleOps ..
  | writeByte rs b => cases rs <;> exact latchesFrom_byteOps ..
  | init => exact latchesFrom_initOps ..
  | clearScreen | cursorReturn => exact latchesFrom_settledCommandOps ..
  | shift tgt dir =>
    rw [microProgram, latchesFrom_settledCommandOps]
    cases tgt <;> cases dir <;> rfl
  | setCursorRow row => exact latchesFrom_commandOps ..
  | detach => exact latchesFrom_settledCommandOps ..
  | setBacklight | writeValue | readValue | hostClearScreen | backlightOn | backlightOff | hostShift | hostCursorReturn
  | hostUnrecognized => rfl

/-- Completion latches nothing; the release of DETACH is no strobe. -/
theorem complete_latches (i : Instr) (s : State) : (complete i s).latches = s.latches := by
  rcases complete_cases i s with ⟨-, h⟩ | ⟨-, h⟩ | ⟨-, -, h⟩ <;> rw [h]
  · rfl
  · simp [State.latches, latchesFrom_append, latchesFrom]
  · rfl

/-- A request that passes its checks latches what its micro-program strobes. -/
theorem serveIdle_latches {i : Instr} {s : State} (hc : failedCheck s.lstate i = none)
    (hl : replay 0x00#8 s.trace = s.lines) :
    (serveIdle i s).latches = s.latches ++ latchesOf s.cfg.initEmit0C i := by
  rw [serveIdle_ran hc, complete_latches, State.latches, latchesFrom_append, hl, latchesFrom_microProgram]
  rfl

end Sys2Proof.Machine
end

section
/-! PROOFS. The streams over every effect (10_state.md R30, 40_line_driver.md R78). -/

namespace Sys2Proof.Machine

/-- From `s` to `t` the parameters are kept, and the pin trace, the diagnostics and the replies only grew. -/
structure StreamsKept (s t : State) : Prop where
  cfg : t.cfg = s.cfg
  trace : s.trace <+: t.trace
  diag : s.diag <+: t.diag
  replies : s.replies <+: t.replies

theorem StreamsKept.of_eq {s t : State} (hc : t.cfg = s.cfg) (ht : t.trace = s.trace) (hd : t.diag = s.diag)
    (hr : t.replies = s.replies) : StreamsKept s t :=
  ⟨hc, ht ▸ List.prefix_rfl, hd ▸ List.prefix_rfl, hr ▸ List.prefix_rfl⟩

theorem StreamsKept.of_trace {s t : State} {es : List PinEvent} (hc : t.cfg = s.cfg) (ht : t.trace = s.trace ++ es)
    (hd : t.diag = s.diag) (hr : t.replies = s.replies) : StreamsKept s t :=
  ⟨hc, ⟨es, ht.symm⟩, hd ▸ List.prefix_rfl, hr ▸ List.prefix_rfl⟩

theorem StreamsKept.of_diag {s t : State} {ds : List DiagEvent} (hc : t.cfg = s.cfg) (ht : t.trace = s.trace)
    (hd : t.diag = s.diag ++ ds) (hr : t.replies = s.replies) : StreamsKept s t :=
  ⟨hc, ht ▸ List.prefix_rfl, ⟨ds, hd.symm⟩, hr ▸ List.prefix_rfl⟩

theorem StreamsKept.trans {s t u : State} (h1 : StreamsKept s t) (h2 : StreamsKept t u) : StreamsKept s u where
  cfg := h2.cfg.trans h1.cfg
  trace := h1.trace.trans h2.trace
  diag := h1.diag.trans h2.diag
  replies := h1.replies.trans h2.replies

theorem complete_streamsKept (i : Instr) (s : State) : StreamsKept s (complete i s) := by
  rcases complete_cases i s with ⟨-, h⟩ | ⟨-, h⟩ | ⟨-, -, h⟩ <;> rw [h]
  · exact .of_eq rfl rfl rfl rfl
  · exact .of_trace rfl rfl rfl rfl
  · exact .of_eq rfl rfl rfl rfl

theorem completeCurrent_streamsKept (s : State) : StreamsKept s (completeCurrent s) := by
  rcases hr : running s with _ | i
  · rw [completeCurrent_none hr]
    exact .of_eq rfl rfl rfl rfl
  · rw [completeCurrent_eq hr]
    exact complete_streamsKept i s

theorem engineTick_streamsKept (s : State) : StreamsKept s (engineTick s) := by
  rcases engineTick_cases s with ⟨-, h⟩ | ⟨-, h⟩ | ⟨-, _, _, -, h⟩ | ⟨-, _, -, -, h⟩ | ⟨-, _, -, -, h⟩ | ⟨-, -, h⟩ <;>
    rw [h]
  · exact .of_eq rfl rfl rfl rfl
  · exact .of_trace rfl rfl rfl rfl
  · exact .of_trace rfl rfl rfl rfl
  · exact .of_eq rfl rfl rfl rfl
  · exact .of_trace rfl rfl rfl rfl
  · exact completeCurrent_streamsKept s

theorem serveIdle_streamsKept (i : Instr) (s : State) : StreamsKept s (serveIdle i s) := by
  rcases hc : failedCheck s.lstate i with _ | c
  · rw [serveIdle_ran hc]
    refine .trans ?_ (complete_streamsKept i _)
    exact .of_trace rfl rfl rfl rfl
  · rw [serveIdle_rejected hc]
    exact .of_diag rfl rfl rfl rfl

theorem hostRun_streamsKept {s t : State} (hb : s.busy = false) (h : HostRun s t) : StreamsKept s t := by
  obtain ⟨_, is, _, _, _, -, -, -, rfl⟩ := h
  have hall : StreamsKept s (serveAll is s) :=
    serveAll_rel (fun _ => .of_eq rfl rfl rfl rfl) .trans (fun i _ s => serveIdle_streamsKept i s) hb
  exact hall.trans ⟨rfl, List.prefix_rfl, List.prefix_append .., List.prefix_append ..⟩

theorem StepEffect.streamsKept {u t : State} (h : StepEffect u t) : StreamsKept u t := by
  cases h with
  | stay | start => exact .of_eq rfl rfl rfl rfl
  | tick => exact engineTick_streamsKept u
  | acquire => exact .of_trace rfl rfl rfl rfl
  | rejectAcq | rejectWord => exact .of_diag rfl rfl rfl rfl
  | request i => exact serveIdle_streamsKept i u
  | host hb h => exact hostRun_streamsKept hb h

end Sys2Proof.Machine
end

section
/-! PROOFS. The statements on the Line Driver, settled. -/

namespace Sys2Proof.Machine

/-- Settles O16: the step is a tick, and the tick the `SetLine` at `seq_pc`. -/
theorem setLineTick : Obligations.SetLineTick := by
  intro s i l v hb hi hd hdec hop
  rw [← currentProgram_of_decodeRequest hdec] at hop
  refine ⟨setBit s.lines l.bit v, ?_, by simp, fun k hk => by simp [hk.symm]⟩
  rw [step_busy hb (deliver_nil hi), engineTick_setLine hd hop]
  rfl

/-- Settles O17, with `ceil(t / T_TICK)` ticks: no `Wait` of a micro-program is empty, so at least one. -/
theorem waitHoldsForItsTicks : Obligations.WaitHoldsForItsTicks := by
  rintro s i t hb hi hd ⟨hnum, hden, -⟩ hdec hop
  have ht : 0 < t := Nat.pos_of_ne_zero fun h0 =>
    waitZero_not_mem_microProgram s.cfg i (h0 ▸ List.mem_of_getElem? hop)
  have hlen : 0 < t * s.cfg.tickDen := Nat.mul_pos ht hden
  rw [← currentProgram_of_decodeRequest hdec] at hop
  exact ⟨ticksFor s.cfg t, ticksFor_pos hnum hlen, le_ticksFor_mul hnum t, ticksFor_pred_mul_lt hnum hlen,
    fun k hk => run_wait hb hi hd hop hk, run_wait_end hb hi hd hop (ticksFor_pos hnum hlen)⟩

/-- Settles O18: no micro-program drives RW, ACQ drives it low, and the invariant, which every step keeps, says so. -/
theorem rwStaysLow : Obligations.RwStaysLow :=
  ⟨setRw_not_mem_microProgram, fun c => (rest_acquire { State.reset with cfg := c }).rw_low,
    fun s t hs h _ => (stepKeepsTheInvariant s t hs h).rw_low⟩

/-- Settles O34: the request runs at once, and latches what its micro-program strobes. -/
theorem latchTraceOfEveryRequest : Obligations.LatchTraceOfEveryRequest := by
  intro s i hi hb hc hl _
  exact ⟨serveIdle i s, by rw [exec_request hi, serve_idle hb], serveIdle_latches hc hl⟩

/-- Settles O60: a change of ports touches no stream, and every effect appends to them. -/
theorem streamsOnlyGrow : Obligations.StreamsOnlyGrow := by
  intro s t h
  obtain ⟨a, v, w, k, is, he⟩ := step_effect h
  obtain ⟨hcfg, htrace, hdiag, hreplies⟩ := he.streamsKept
  exact ⟨hcfg, htrace, hdiag, hreplies⟩

end Sys2Proof.Machine
end

section
/-! PROOFS. Requests by their micro-program (41_protocol_engine.md R88 to R91): the events and lines of a nibble, a byte
and a settled command, and from them the whole next state of a request. -/

namespace Sys2Proof.Machine

open Sys2Proof.Claims

/-! Events and lines. -/

theorem eventsOf_nibbleOps (v : Nibble) (rs : Bool) : eventsOf (nibbleOps v rs) = nibbleEvents v rs := rfl

theorem eventsOf_byteOps (b : Byte) (rs : Bool) : eventsOf (byteOps b rs) = byteEvents b rs := rfl

theorem eventsOf_settledCommandOps (b : Byte) : eventsOf (settledCommandOps b) = byteEvents b false ++ [.wait 2000] :=
  rfl

theorem replay_nibbleEvents (L : Byte) (v : Nibble) (rs : Bool) : replay L (nibbleEvents v rs) = linesWith L v rs :=
  replay_nibbleOps L v rs

/-- A second nibble takes the place of the first: BL and RW are still as before both (R90). -/
theorem linesWith_linesWith (L : Byte) (u v : Nibble) (ru rv : Bool) :
    linesWith (linesWith L u ru) v rv = linesWith L v rv := by
  refine levels_ext fun l => ?_
  have hbl : (linesWith L u ru).getLsbD 3 = (L.extractLsb' 3 1).getLsbD 0 := level_fields u _ _ _ _ .bl
  have hrw : (linesWith L u ru).getLsbD 1 = (L.extractLsb' 1 1).getLsbD 0 := level_fields u _ _ _ _ .rw
  simp only [linesWith] at hbl hrw ⊢
  rw [level_fields, level_fields]
  cases l with
  | bl => simpa using hbl
  | rw => simpa using hrw
  | rs | en | d4 | d5 | d6 | d7 => rfl

theorem replay_byteEvents (L b : Byte) (rs : Bool) :
    replay L (byteEvents b rs) = linesWith L (b.extractLsb' 0 4) rs := by
  rw [byteEvents, replay_append, replay_nibbleEvents, replay_nibbleEvents, linesWith_linesWith]

/-! Checks. -/

/-- R99's check, which comes after the lifecycle check (R148). -/
theorem failedCheck_rowRange {row : Byte} (h : 2 ≤ row.toNat) :
    failedCheck .ready (.setCursorRow row) = some .rowRange := by
  simp [failedCheck, needsReady, Nat.not_lt.2 h]

/-- The lifecycle check comes first, so a row of 2 or more is no exception (R148). -/
theorem failedCheck_notReady {i : Instr} {l : LState} (hr : i.isRequest = true) (hi : i ≠ .init) (hl : l ≠ .ready) :
    failedCheck l i = some .notReady := by
  cases i with
  | init => exact absurd rfl hi
  | writeValue | readValue | hostClearScreen | backlightOn | backlightOff | hostShift | hostCursorReturn
  | hostUnrecognized => cases hr
  | _ => simp [failedCheck, needsReady, hl]

/-! Requests on an idle Engine. -/

/-- A request that fails a check leaves the claims' rejected state (R146). -/
theorem exec_rejected {i : Instr} {s : State} {c : Cause} (hr : i.isRequest = true) (hb : s.busy = false)
    (hc : failedCheck s.lstate i = some c) : exec i s = .next (rejected s (requestWord i) c) := by
  rw [exec_request hr, serve_idle hb, serveIdle_rejected hc]
  rfl

section
variable {i : Instr} {s : State}

/-- A request other than INIT and DETACH that passes its checks leaves what its micro-program drives, and its frame
(R88). -/
theorem exec_ran (hi : InnerRequest i) (hs : Serving s) (hc : failedCheck .ready i = none) :
    exec i s = .next (ran s (requestWord i) (microProgram s.cfg i).length (eventsOf (microProgram s.cfg i))
      (replay s.lines (eventsOf (microProgram s.cfg i)))) := by
  obtain ⟨hr, hinit, hdetach⟩ := hi
  obtain ⟨hb, hl⟩ := hs
  have hf (t : State) : finalEffect i t = t := by
    rcases finalEffect_cases i t with ⟨h, -⟩ | ⟨h, -⟩ | ⟨-, -, h⟩
    · exact absurd h hinit
    · exact absurd h hdetach
    · exact h
  rw [exec_request hr, serve_idle hb, serveIdle_plain (hl ▸ hc) hf]
  rfl

/-- A request that sends one byte (R90). -/
theorem exec_byteOps {b : Byte} {rs : Bool} (hp : microProgram s.cfg i = byteOps b rs) (hi : InnerRequest i)
    (hs : Serving s) (hc : failedCheck .ready i = none) :
    exec i s = .next (ran s (requestWord i) 18 (byteEvents b rs) (linesWith s.lines (b.extractLsb' 0 4) rs)) := by
  rw [exec_ran hi hs hc, hp, length_byteOps, eventsOf_byteOps, replay_byteEvents]

/-- A request that sends one command byte and waits for it to settle (R91). -/
theorem exec_settledCommandOps {b : Byte} (hp : microProgram s.cfg i = settledCommandOps b) (hi : InnerRequest i)
    (hs : Serving s) (hc : failedCheck .ready i = none) :
    exec i s = .next (ran s (requestWord i) 19 (byteEvents b false ++ [.wait 2000])
      (linesWith s.lines (b.extractLsb' 0 4) false)) := by
  rw [exec_ran hi hs hc, hp, length_settledCommandOps, eventsOf_settledCommandOps, replay_append, replay_byteEvents]
  rfl

end

/-- `RS` as the claims write it (R59). -/
theorem regSel_bit_eq_decide (rs : RegSel) : rs.bit = decide (rs = .data) := by cases rs <;> rfl

end Sys2Proof.Machine
end

section
/-! PROOFS. The statements on the Protocol Engine's requests, settled. -/

namespace Sys2Proof.Machine

open Sys2Proof.Claims

/-- Settles O23: the micro-program is one nibble. -/
theorem writeNibbleResult : Obligations.WriteNibbleResult := by
  intro s rs nib hs
  simpa only [microProgram, requestWord, length_nibbleOps, eventsOf_nibbleOps, replay_nibbleEvents, bit1,
    regSel_bit_eq_decide] using exec_ran (i := .writeNibble rs nib) ⟨rfl, nofun, nofun⟩ hs rfl

/-- Settles O24: the micro-program is one byte. -/
theorem writeByteResult : Obligations.WriteByteResult := by
  intro s rs b hs
  simpa only [requestWord, bit1, regSel_bit_eq_decide] using
    exec_byteOps (i := .writeByte rs b) rfl ⟨rfl, nofun, nofun⟩ hs rfl

/-- Settles O25: both are settled commands. -/
theorem settledCommandResults : Obligations.SettledCommandResults := fun _ hs =>
  ⟨exec_settledCommandOps rfl ⟨rfl, nofun, nofun⟩ hs rfl, exec_settledCommandOps rfl ⟨rfl, nofun, nofun⟩ hs rfl⟩

/-- Settles O26: a settled command of `shiftByte`, whose four values are R97's bytes. -/
theorem shiftMappingIsR97 : Obligations.ShiftMappingIsR97 := by
  intro s hs t d w b hrow
  have hwb : requestWord (.shift t d) = w ∧ shiftByte t d = b := by
    simp only [List.mem_cons, List.not_mem_nil, or_false, Prod.mk.injEq] at hrow
    rcases hrow with ⟨rfl, rfl, rfl, rfl⟩ | ⟨rfl, rfl, rfl, rfl⟩ | ⟨rfl, rfl, rfl, rfl⟩ | ⟨rfl, rfl, rfl, rfl⟩ <;> decide
  obtain ⟨rfl, rfl⟩ := hwb
  exact exec_settledCommandOps rfl ⟨rfl, nofun, nofun⟩ hs rfl

/-- Settles O27: `rowByte` is 0x80 for row 0 and 0xC0 for row 1, sent as a command with no settle wait. -/
theorem setCursorRowResult : Obligations.SetCursorRowResult := fun _ hs =>
  ⟨exec_byteOps (b := 0x80#8) rfl ⟨rfl, nofun, nofun⟩ hs rfl,
    exec_byteOps (b := 0xC0#8) rfl ⟨rfl, nofun, nofun⟩ hs rfl⟩

/-- Settles O30: the lifecycle check fails first. -/
theorem requestsOutsideReadyAreRejected : Obligations.RequestsOutsideReadyAreRejected := fun _ _ hr hi hb hl =>
  exec_rejected hr hb (failedCheck_notReady hr hi hl)

/-- Settles O28: in READY the row check fails. -/
theorem rowOfTwoOrMoreIsRejected : Obligations.RowOfTwoOrMoreIsRejected := by
  rintro s row ⟨hb, hl⟩ hrow
  exact exec_rejected rfl hb (hl ▸ failedCheck_rowRange hrow)

/-- Settles O29: the micro-program is one `SetLine` of BL. -/
theorem setBacklightResult : Obligations.SetBacklightResult := fun _ hs =>
  ⟨exec_ran ⟨rfl, nofun, nofun⟩ hs rfl, exec_ran ⟨rfl, nofun, nofun⟩ hs rfl⟩

end Sys2Proof.Machine
end

section
/-! PROOFS. INIT, DETACH and the ACQ event by what each leaves, and the host's wait by steps (42_init_sequencer.md). -/

namespace Sys2Proof.Machine

open Sys2Proof.Claims

/-! INIT. -/

theorem length_initOps (emit0C : Bool) : (initOps emit0C).length = if emit0C then 148 else 130 := by
  cases emit0C <;> rfl

theorem eventsOf_initOps (emit0C : Bool) : eventsOf (initOps emit0C) = initEvents emit0C := by
  cases emit0C <;> rfl

/-- The last nibble of INIT is the low half of 0x0F, with or without byte 0x0C (R102, R106). -/
theorem replay_initEvents (L : Byte) (emit0C : Bool) : replay L (initEvents emit0C) = linesWith L 0xF#4 false := by
  cases emit0C <;>
    simp [initEvents, replay_append, replay_byteEvents, replay_nibbleEvents, linesWith_linesWith, levelsAfter]

/-- R104: INIT's only check is the lifecycle state. -/
theorem failedCheck_init_of_ne {l : LState} (h : l ≠ .uninit) : failedCheck l .init = some .initState := if_neg h

/-! DETACH. -/

theorem eventsOf_detachOps :
    eventsOf detachOps = [.set .bl false] ++ byteEvents 0x01#8 false ++ [.wait 2000] := rfl

/-- A nibble after a change of BL: BL is as set (R85, R89). -/
theorem linesWith_setBit_bl (L : Byte) (on : Bool) (v : Nibble) (rs : Bool) :
    linesWith (setBit L Line.bl.bit on) v rs =
      v ++ BitVec.ofBool on ++ 0#1 ++ L.extractLsb' 1 1 ++ BitVec.ofBool rs := by
  have hbl : (setBit L Line.bl.bit on).getLsbD 3 = on := level_setBit L .bl .bl on
  have hrw : (setBit L Line.bl.bit on).getLsbD 1 = L.getLsbD 1 := level_setBit L .bl .rw on
  refine levels_ext fun l => ?_
  rw [linesWith, level_fields, level_fields]
  cases l with
  | bl => simpa using hbl
  | rw => simpa using hrw
  | rs | en | d4 | d5 | d6 | d7 => rfl

/-- The lines DETACH leaves: BL 0 first, then byte 0x01 (R113). -/
theorem replay_detachOps (L : Byte) :
    replay L (eventsOf detachOps) = 0x1#4 ++ 0#1 ++ 0#1 ++ L.extractLsb' 1 1 ++ 0#1 := by
  rw [eventsOf_detachOps, replay_append, replay_append, replay_byteEvents]
  exact linesWith_setBit_bl L false 0x1#4 false

/-! The ACQ event. -/

theorem acquiredLevels_eq (c : Config) : acquiredLevels c = if c.blResetLevel then 0x08#8 else 0x00#8 := by
  unfold acquiredLevels
  cases c.blResetLevel <;> rfl

/-- An error completion of an idle Engine: the cause, `STICKY` and one event (R146). -/
theorem raiseError_idle {s : State} (hb : s.busy = false) (c : Cause) :
    raiseError c s = { s with err := c, sticky := true, diag := s.diag ++ [.engine c] } := by
  rw [raiseError, emit, ← hb]

/-- The step that takes the pending ACQ event. -/
theorem step_acq {s : State} {ok : Bool} (hb : s.busy = false) (ha : s.acq = some ok) (hd : deliver s = none) :
    step s = .next (takeAcq ok { s with acq := none }) := by
  simp [step, stepOnce, hd, hb, ha]

theorem takeAcq_of_off {s : State} (h : s.lstate = .off) (ok : Bool) :
    takeAcq ok s = if ok then acquire s else raiseError .acquireFail s := by
  simp [takeAcq, h]

theorem takeAcq_of_ne_off {s : State} (h : s.lstate ≠ .off) (ok : Bool) :
    takeAcq ok s = raiseError .alreadyAttached s := if_pos h

/-! The host's steps. -/

/-- A step of an idle Engine whose host waits counts the wait down. -/
theorem step_hostWait {s : State} (hb : s.busy = false) (ha : s.acq = none) (hv : s.reqValid = false)
    (hw : s.hostWait ≠ 0) (hn : ∀ ok rest, s.inputs ≠ .acq ok :: rest) :
    step s = .next { s with hostWait := s.hostWait - 1 } := by
  simp [step, stepOnce, deliver_waiting hw hn, hb, ha, hv, hw]

theorem run_hostWait {s : State} {k : Nat} (hb : s.busy = false) (ha : s.acq = none) (hv : s.reqValid = false)
    (hk : k ≤ s.hostWait) (hn : ∀ ok rest, s.inputs ≠ .acq ok :: rest) :
    Sys2Proof.core.run k s = .next { s with hostWait := s.hostWait - k } := by
  induction k with
  | zero => rfl
  | succ k ih =>
    exact run_succ_of_step (ih (by omega))
      (step_hostWait (s := { s with hostWait := s.hostWait - k }) hb ha hv (Nat.sub_ne_zero_of_lt hk) hn)

/-- A run by its first step. -/
theorem run_of_step {s t : State} (h : step s = .next t) (n : Nat) :
    Sys2Proof.core.run (n + 1) s = Sys2Proof.core.run n t := by
  simp [Host.Core.run, show Sys2Proof.core.step s = .next t from h]

/-- The step that begins the attach procedure. -/
theorem step_attach {s : State} {ok : Bool} {rest : List Input} (h : Quiet s) (hi : s.inputs = .attach ok :: rest) :
    step s = .next (attach ok { s with inputs := rest }) := by
  obtain ⟨hb, ha, hv, hw⟩ := h
  simp [step, stepOnce, deliver, runInput, hb, ha, hv, hw, hi]

theorem attach_of_off {s : State} (h : s.lstate = .off) :
    attach true s = { acquire s with
      hostWait := ticksFor s.cfg s.cfg.powerOn, inputs := .call (.request 0x3000#16) :: s.inputs } := by
  rcases attach_cases true s with ⟨-, -, he⟩ | ⟨hn, -⟩
  · exact he
  · exact absurd ⟨h, rfl⟩ hn

/-- The step of the host's call of INIT runs INIT (R119). -/
theorem step_call_init {s : State} {rest : List Input} (h : AtCall s (.request 0x3000#16) rest) :
    step s = exec .init { s with inputs := rest } := by
  have hdec : decodeRequest 0x3000#16 = .ok .init := Laws.RequestWord.all .init rfl
  simp [step_call h, runCall, decode, hdec]

/-- A host that waits before its call of INIT lets the wait pass and runs INIT (R114, R115). -/
theorem run_hostWait_init {s t : State} {rest : List Input} (hb : s.busy = false) (ha : s.acq = none)
    (hv : s.reqValid = false) (hi : s.inputs = .call (.request 0x3000#16) :: rest)
    (ht : exec .init { s with hostWait := 0, inputs := rest } = .next t) :
    Sys2Proof.core.run (s.hostWait + 1) s = .next t := by
  have hwait := run_hostWait hb ha hv le_rfl (by simp [hi])
  rw [Nat.sub_self] at hwait
  exact run_succ_of_step hwait ((step_call_init (s := { s with hostWait := 0 }) ⟨hb, ha, hv, rfl, hi⟩).trans ht)

end Sys2Proof.Machine
end

section
/-! PROOFS. The statements on INIT, DETACH, the ACQ event and the attach procedure, settled. -/

namespace Sys2Proof.Machine

open Sys2Proof.Claims

/-- Settles O31: the micro-program is the handshake, and its completion makes the Engine READY. -/
theorem initResult : Obligations.InitResult := by
  intro s hb hl
  have hc : failedCheck s.lstate .init = none := if_pos hl
  rw [exec_request rfl, serve_idle hb, serveIdle_ran hc, microProgram, length_initOps, eventsOf_initOps,
    replay_initEvents]
  rfl

/-- Settles O33: BL off and a settled command, and the completion releases the lines. -/
theorem detachResult : Obligations.DetachResult := by
  rintro s ⟨hb, hl⟩
  have hc : failedCheck s.lstate .detach = none := if_pos hl
  rw [exec_request rfl, serve_idle hb, serveIdle_ran hc, microProgram, replay_detachOps, ran,
    ← List.append_assoc s.trace]
  rfl

/-- Settles O32: the lifecycle check fails. -/
theorem initOutsideUninitIsRejected : Obligations.InitOutsideUninitIsRejected := fun _ hb hl =>
  exec_rejected rfl hb (failedCheck_init_of_ne hl)

/-- Settles O37: the step takes the event, and the Engine is in OFF. -/
theorem successfulAcq : Obligations.SuccessfulAcq := by
  intro s hb ha hl hd
  rw [step_acq hb ha hd, takeAcq_of_off (by exact hl), ← acquiredLevels_eq]
  simp [acquire, hb, DevInst.fresh]

/-- Settles O38: the step takes the event, and the error completion drives no line. -/
theorem failedAcq : Obligations.FailedAcq := by
  intro s hb ha hl hd
  rw [step_acq hb ha hd, takeAcq_of_off (by exact hl), if_neg Bool.false_ne_true, raiseError_idle (by exact hb)]

/-- Settles O39: the lifecycle state is looked at before the event's bit (R148). -/
theorem acqWhileAttached : Obligations.AcqWhileAttached := by
  intro s ok hb ha hl hd
  rw [step_acq hb ha hd, takeAcq_of_ne_off (by exact hl), raiseError_idle (by exact hb)]

/-- Settles O40: the wait is counted down step by step, and the attach procedure ends with INIT in UNINIT. -/
theorem attachEndsReady : Obligations.AttachEndsReady := by
  refine ⟨fun s k hb ha hv hk hn => run_hostWait hb ha hv hk hn, fun s rest hb ha hv hw hl hi => ?_⟩
  have hattach := step_attach ⟨hb, ha, hv, hw⟩ hi
  rw [attach_of_off (by exact hl)] at hattach
  rw [run_of_step hattach]
  refine ⟨_, run_hostWait_init rfl ha hv rfl (initResult _ rfl rfl), rfl, rfl, rfl, rfl, rfl, rfl, ?_, ?_⟩
  · simp [ran, acquiredLevels_eq]
  · simp only [ran, acquire_lines, acquiredLevels_eq]
    cases s.cfg.blResetLevel <;> rfl

end Sys2Proof.Machine
end

section
/-! PROOFS. Calls of the host (43_host_layer.md R119, R135): the call of an instruction runs it, and a malformed payload is
refused; and the host commands that issue one request. -/

namespace Sys2Proof.Machine

open Sys2Proof.Claims

theorem runCall_ok {c : Code} {s : State} {i : Instr} (h : decode s.cfg.hostCodes c = .ok i) :
    runCall c s = exec i s := by
  rw [runCall, h]

theorem runCall_malformed {hc : Byte} {payload : List Byte} {s : State} {r : Reject}
    (h : decodeCommand s.cfg.hostCodes hc payload = .error r) :
    runCall (.command hc payload) s = .refused .malformedPayload := by
  simp [runCall, decode, h]

/-- A call placed next is where a call begins (R119). -/
theorem atCall_placeCall (c : Code) (s : State) : AtCall (placeCall c s) c s.inputs := ⟨rfl, rfl, rfl, rfl, rfl⟩

/-- The attached machine differs from the given one in the device and `LSTATE` only. -/
theorem attached_eq (s : State) : ∃ h l, attached s = { s with host := some h, lstate := l } := by
  rcases hh : s.host with _ | h
  · exact ⟨.fresh, .ready, by simp [attached, hh]⟩
  · have hs : attached s = s := by simp [attached, hh]
    exact ⟨h, s.lstate, by rw [hs, ← hh]⟩

theorem withoutPayload_error (i : Instr) {payload : List Byte} (h : payload ≠ []) :
    withoutPayload i payload = .error .malformedPayload := if_neg h

theorem toNat_lt_of_and_eq_zero {b : Byte} (h : b &&& 0xFC#8 = 0#8) : b.toNat < 4 := by
  revert b
  decide +kernel

/-- R72: a SHIFT payload is one byte below 4. -/
theorem shiftPayload_error {payload : List Byte} (h : ∀ b, payload = [b] → 4 ≤ b.toNat) :
    shiftPayload payload = .error .malformedPayload := by
  unfold shiftPayload
  split
  · rename_i b
    exact if_pos fun h0 => absurd (toNat_lt_of_and_eq_zero h0) (Nat.not_lt.2 (h b rfl))
  · rfl

/-- Decoding under the placeholder codes refuses a payload of the wrong shape (R71, R72). -/
theorem decodeCommand_malformed {hc : Byte} {payload : List Byte}
    (h : (hc ∈ [0x01#8, 0x02#8, 0x03#8, 0x04#8, 0x06#8] ∧ payload ≠ []) ∨
      (hc = 0x05#8 ∧ ∀ b, payload = [b] → 4 ≤ b.toNat)) :
    decodeCommand .placeholder hc payload = .error .malformedPayload := by
  rcases h with ⟨hc, hp⟩ | ⟨rfl, hp⟩
  · simp only [List.mem_cons, List.not_mem_nil, or_false] at hc
    rcases hc with rfl | rfl | rfl | rfl | rfl <;> exact withoutPayload_error _ hp
  · exact shiftPayload_error hp

/-- A host command that issues one request and leaves the device alone leaves what the request leaves. -/
theorem dispatch_serve {j : Instr} {s : State} {h : DevInst} (hj : j.isRequest = true) (ha : Attached s h) :
    dispatch (fun _ s' => .next (serve j s')) s = exec j s := by
  obtain ⟨⟨hb, -⟩, hh⟩ := ha
  rw [dispatch_some hb hh, exec_request hj]

end Sys2Proof.Machine
end

section
/-! PROOFS. The statements on calls and on the host commands but WRITE_VALUE, settled. -/

namespace Sys2Proof.Machine

open Sys2Proof.Claims

/-- Settles O5: the step is the call, and the call runs what it decodes to. -/
theorem stepRunsTheDecodedCall : Obligations.StepRunsTheDecodedCall := by
  intro s c rest i h hd
  rw [step_call h]
  exact runCall_ok hd

/-- Settles O6: the placed state is at its call, with a device where the code is a host command's. -/
theorem placedWordRunsNext : Obligations.PlacedWordRunsNext := by
  intro s nbits w i hd
  unfold State.withFetchWord codeOfTableWord at *
  by_cases hn : nbits ≤ 8
  · obtain ⟨h, l, he⟩ := attached_eq s
    rw [if_pos hn] at hd ⊢
    rw [placeCode, he]
    exact ⟨_, stepRunsTheDecodedCall _ _ _ i (atCall_placeCall _ _) hd, rfl, rfl, rfl, rfl, rfl, rfl,
      fun hlt => absurd hn (Nat.not_le.2 hlt), fun _ => Option.some_ne_none h⟩
  · rw [if_neg hn] at hd ⊢
    rw [placeCode]
    exact ⟨_, stepRunsTheDecodedCall _ _ _ i (atCall_placeCall _ _) hd, rfl, rfl, rfl, rfl, rfl, rfl,
      fun _ => ⟨rfl, rfl⟩, fun hle => absurd hle hn⟩

/-- Settles O9: the call decodes to no instruction, and the device is not looked at. -/
theorem malformedPayloadIsRefused : Obligations.MalformedPayloadIsRefused := by
  intro s hc payload rest h hm hp
  rw [step_call h]
  exact runCall_malformed (hm ▸ decodeCommand_malformed hp)

/-- Settles O46: `LEN` is inside the buffer, so the read returns the bytes. -/
theorem readValueResult : Obligations.ReadValueResult := by
  intro s h hb hh hl
  have hread := memReadFrom_ok (m := h.buf) (i := 0) (n := h.len.toNat) (by simpa [capacity] using hl)
  simp only [Nat.zero_add] at hread
  rw [exec, execReadValue, dispatch_some hb hh, hread]

/-- Settles O48: the device is emptied, and the request runs on it as CLEAR_SCREEN does on any. -/
theorem hostClearResult : Obligations.HostClearResult := by
  rintro s h ⟨⟨hb, hl⟩, hh⟩
  have hclear := (settledCommandResults (withInst ⟨[], 0#6, 0#6, 0#5⟩ s) ⟨hb, hl⟩).1
  rw [exec, execHostClearScreen, dispatch_some hb hh]
  exact hclear

/-- Settles O49: each is its SET_BACKLIGHT. -/
theorem hostBacklightResults : Obligations.HostBacklightResults := by
  refine ⟨rfl, rfl, fun s h ha => ?_⟩
  obtain ⟨hon, hoff⟩ := setBacklightResult s ha.1
  exact ⟨(dispatch_serve rfl ha).trans hon, (dispatch_serve rfl ha).trans hoff⟩

/-- Settles O50: the payload is the encoder's, and the command is its SHIFT. -/
theorem hostShiftResult : Obligations.HostShiftResult := by
  intro t d payload w b hrow
  refine ⟨?_, fun s h ha => (dispatch_serve rfl ha).trans (shiftMappingIsR97 s ha.1 t d w b ?_)⟩
  · simp only [List.mem_cons, List.not_mem_nil, or_false, Prod.mk.injEq] at hrow
    rcases hrow with ⟨rfl, rfl, rfl, -⟩ | ⟨rfl, rfl, rfl, -⟩ | ⟨rfl, rfl, rfl, -⟩ | ⟨rfl, rfl, rfl, -⟩ <;> rfl
  · exact List.mem_map_of_mem (f := fun r => (r.1, r.2.1, r.2.2.2)) hrow

/-- Settles O51: the command is its CURSOR_RETURN. -/
theorem hostCursorReturnResult : Obligations.HostCursorReturnResult :=
  ⟨rfl, fun s _ ha => (dispatch_serve rfl ha).trans (settledCommandResults s ha.1).2⟩

/-- Settles O52: the code is compared with the seven assigned ones and equals none; the command appends its diagnostic. -/
theorem unrecognizedCodeIsANoOp : Obligations.UnrecognizedCodeIsANoOp := by
  refine ⟨fun m hc payload hn => ?_, fun s h hc payload hb hh => ?_⟩
  · simp only [HostCodeMap.codes, List.mem_cons, not_or] at hn
    simp [decode, decodeCommand, hn]
  · rw [exec, execHostUnrecognized, dispatch_some hb hh]
    rfl

/-- Settles O53: every host command is dispatched, which needs a device; OFF is not READY. -/
theorem hostCommandWithoutInstance : Obligations.HostCommandWithoutInstance := by
  refine ⟨fun s i hi hb hn => ?_, fun s i hr hi hb hl => ?_⟩
  · obtain ⟨k, hk, -⟩ := exec_eq_dispatch hi
    rw [hk, dispatch_none hb (by simpa [State.inst] using hn)]
  · exact requestsOutsideReadyAreRejected s i hr hi hb (by simp [hl])

end Sys2Proof.Machine
end

section
/-! PROOFS. WRITE_VALUE byte by byte (43_host_layer.md R121 to R127): on a good device the plan of the write path is a
`WriteRun`, whose requests, row, buffer and leftover are read off by induction. -/

namespace Sys2Proof.Machine

open Sys2Proof.Claims

/-! The run of a plan. -/

/-- Byte `b` stored on the device `h` behind the requests `is`, leaving `h'`: at `LEN`, and in the row that newline
(R123), soft wrap (R124) or neither (R125) makes current. -/
structure Stored (pol : RowPolicy) (b : Byte) (h h' : DevInst) (is : List Instr) : Prop where
  wf : h'.Wf
  buf : h'.buf = writeCell h.buf h.len.toNat b
  len : h'.len.toNat = h.len.toNat + 1
  row : (b = 0x0A#8 ∧ h'.row.toNat = h.row.toNat + 1 ∧ is = rowRequests pol (h.row.toNat + 1)) ∨
    (b ≠ 0x0A#8 ∧ (h.row.toNat = 0 ∧ h.len.toNat > 15) ∧ h'.row.toNat = 1 ∧
      is = [.setCursorRow 1#8, .writeByte .data b]) ∨
    (b ≠ 0x0A#8 ∧ ¬(h.row.toNat = 0 ∧ h.len.toNat > 15) ∧ h'.row.toNat = h.row.toNat ∧ is = [.writeByte .data b])

/-- The write path from a good device: the bytes end, the buffer is full (R122), or a byte is stored and the rest
follows. -/
inductive WriteRun (pol : RowPolicy) : List Byte → DevInst → WritePlan → Prop
  | done {h : DevInst} (hw : h.Wf) : WriteRun pol [] h ⟨h, [], false⟩
  | full {b : Byte} {bs : List Byte} {h : DevInst} (hw : h.Wf) (hl : h.len.toNat = 32) :
    WriteRun pol (b :: bs) h ⟨h, [], true⟩
  | store {b : Byte} {bs : List Byte} {h h' : DevInst} {is : List Instr} {q : WritePlan} (hw : h.Wf)
    (hl : h.len.toNat < 32) (hs : Stored pol b h h' is) (hq : WriteRun pol bs h' q) :
    WriteRun pol (b :: bs) h { q with requests := is ++ q.requests }

/-- The claims' table of `SetRow` is the model's (R120). -/
theorem setRowRequests_eq (pol : RowPolicy) (r : BitVec 6) : setRowRequests pol r = rowRequests pol r.toNat := by
  have hr (k : BitVec 6) : r = k ↔ r.toNat = k.toNat := ⟨congrArg _, BitVec.eq_of_toNat_eq⟩
  simp only [setRowRequests, rowRequests, hr, BitVec.toNat_ofNat, BitVec.ofNat_toNat]
  cases pol <;> rfl

theorem appendByte_fields {b : Byte} {h h' : DevInst} (hl : h.len.toNat < 32) (ha : appendByte b h = .ok h') :
    h'.buf = writeCell h.buf h.len.toNat b ∧ h'.len.toNat = h.len.toNat + 1 ∧ h'.row = h.row := by
  rw [appendByte_ok hl] at ha
  cases ha
  refine ⟨rfl, ?_, rfl⟩
  rw [BitVec.toNat_add]
  exact Nat.mod_eq_of_lt (by simp; omega)

theorem softWraps_iff (h : DevInst) : softWraps h = true ↔ h.row.toNat = 0 ∧ h.len.toNat > 15 := by
  rw [softWraps, decide_eq_true_iff, ← BitVec.toNat_inj]
  rfl

theorem stored_newline {pol : RowPolicy} {h h' : DevInst} (hw : h.Wf) (hl : h.len.toNat < 32)
    (ha : appendByte newline (nextRow h) = .ok h') :
    Stored pol newline h h' (setRowRequests pol h'.row) := by
  obtain ⟨hbuf, hlen, hrow⟩ := appendByte_fields (h := nextRow h) hl ha
  refine ⟨appendByte_nextRow_wf hw hl ha, hbuf, hlen, .inl ⟨rfl, ?_, ?_⟩⟩
  · rw [hrow, hw.toNat_nextRow hl]
  · rw [setRowRequests_eq, hrow, hw.toNat_nextRow hl]

theorem stored_softWrap {pol : RowPolicy} {b : Byte} {h h' : DevInst} (hw : h.Wf) (hl : h.len.toNat < 32)
    (hb : b ≠ newline) (hs : softWraps h = true) (ha : appendByte b (nextRow h) = .ok h') :
    Stored pol b h h' (setRowRequests pol h'.row ++ [.writeByte .data b]) := by
  obtain ⟨hbuf, hlen, hrow⟩ := appendByte_fields (h := nextRow h) hl ha
  have hwrap := (softWraps_iff h).1 hs
  have hrow1 : h'.row.toNat = 1 := by rw [hrow, hw.toNat_nextRow hl, hwrap.1]
  exact ⟨appendByte_nextRow_wf hw hl ha, hbuf, hlen, .inr (.inl ⟨hb, hwrap, hrow1, by
    rw [setRowRequests_eq, hrow1]; rfl⟩)⟩

theorem stored_sameRow {pol : RowPolicy} {b : Byte} {h h' : DevInst} (hw : h.Wf) (hl : h.len.toNat < 32)
    (hb : b ≠ newline) (hs : softWraps h = false) (ha : appendByte b h = .ok h') :
    Stored pol b h h' [.writeByte .data b] := by
  obtain ⟨hbuf, hlen, hrow⟩ := appendByte_fields hl ha
  have hwrap : ¬(h.row.toNat = 0 ∧ h.len.toNat > 15) := fun h0 => by
    rw [(softWraps_iff h).2 h0] at hs
    cases hs
  exact ⟨appendByte_sameRow_wf hw hl hs ha, hbuf, hlen, .inr (.inr ⟨hb, hwrap, congrArg _ hrow, rfl⟩)⟩

theorem writeRun_of_writePlan {pol : RowPolicy} {bs : List Byte} {h : DevInst} {p : WritePlan} (hw : h.Wf)
    (hp : writePlan pol bs h = .ok p) : WriteRun pol bs h p := by
  induction bs generalizing h p with
  | nil =>
    cases hp
    exact .done hw
  | cons b bs ih =>
    rcases writePlan_cons hp with ⟨hfull, rfl⟩ | ⟨hne, h₁, h', is, q, ha, hq, rfl, hcase⟩
    · exact .full hw (congrArg BitVec.toNat hfull)
    · have hl : h.len.toNat < 32 := lt_of_le_of_ne hw.len_le fun e => hne (BitVec.eq_of_toNat_eq e)
      have hs : Stored pol b h h' is := by
        rcases hcase with ⟨rfl, rfl, rfl⟩ | ⟨hb, hsoft, rfl, rfl⟩ | ⟨hb, hsoft, rfl, rfl⟩
        · exact stored_newline hw hl ha
        · exact stored_softWrap hw hl hb hsoft ha
        · exact stored_sameRow hw hl hb hsoft ha
      exact .store hw hl hs (ih hs.wf hq)

/-! What a run leaves. -/

/-- The bytes the device holds, in index order (R128). -/
def DevInst.contents (h : DevInst) : List Byte := (List.range h.len.toNat).map (readCell h.buf)

@[simp] theorem DevInst.length_contents (h : DevInst) : h.contents.length = h.len.toNat := by simp [DevInst.contents]

/-- Every index of a good device reads as its contents say, and as 0x00 behind them (R118). -/
theorem DevInst.Wf.readCell_eq {h : DevInst} (hw : h.Wf) (i : Nat) : readCell h.buf i = h.contents.getD i 0x00#8 := by
  by_cases hi : i < h.len.toNat
  · simp [DevInst.contents, hi]
  · rw [hw.zero_above i (Nat.not_lt.1 hi), List.getD_eq_default _ _ (by simpa using hi)]

theorem Stored.contents {pol : RowPolicy} {b : Byte} {h h' : DevInst} {is : List Instr} (hs : Stored pol b h h' is)
    (hw : h.Wf) : h'.contents = h.contents ++ [b] := by
  have hread (i : Nat) : readCell h'.buf i = if h.len.toNat = i then b else readCell h.buf i := by
    rw [hs.buf, readCell_writeCell hw.buf_wf.1]
  have hold : (List.range h.len.toNat).map (readCell h'.buf) = h.contents :=
    List.map_congr_left fun i hi => by rw [hread, if_neg (List.mem_range.1 hi).ne']
  rw [DevInst.contents, hs.len, List.range_succ, List.map_append, hold, List.map_singleton, hread, if_pos rfl]

section
variable {pol : RowPolicy} {bs : List Byte} {h : DevInst} {p : WritePlan}

theorem WriteRun.wf (hr : WriteRun pol bs h p) : p.inst.Wf := by
  induction hr with
  | done hw | full hw => exact hw
  | store _ _ _ _ ih => exact ih

/-- R122, R127: the accepted bytes stand behind the old ones, in order, up to 32 of them. -/
theorem WriteRun.contents (hr : WriteRun pol bs h p) : p.inst.contents = h.contents ++ bs.take (32 - h.len.toNat) := by
  induction hr with
  | done => simp
  | full _ hl => simp [hl]
  | @store b bs h h' _ _ hw hl hs _ ih =>
    have hleft : 32 - h.len.toNat = (32 - h'.len.toNat) + 1 := by rw [hs.len]; omega
    rw [ih, hs.contents hw, hleft, List.take_succ_cons, List.append_assoc, List.singleton_append]

theorem WriteRun.len (hr : WriteRun pol bs h p) :
    p.inst.len.toNat = h.len.toNat + min bs.length (32 - h.len.toNat) := by
  have := congrArg List.length hr.contents
  simpa [min_comm] using this

/-- R122: the run ends full exactly when bytes are left over. -/
theorem WriteRun.full_eq (hr : WriteRun pol bs h p) : p.full = decide (32 < h.len.toNat + bs.length) := by
  induction hr with
  | done hw => simpa using hw.len_le
  | full _ hl => simp [hl]
  | store _ _ hs _ ih => rw [ih, hs.len, List.length_cons, Nat.add_right_comm, Nat.add_assoc]

/-- The requests are the claims' (R120, R121, R123, R124). -/
theorem WriteRun.requests (hr : WriteRun pol bs h p) :
    p.requests = writeRequests pol bs h.len.toNat h.row.toNat := by
  induction hr with
  | done => rfl
  | full _ hl => rw [writeRequests, if_pos hl]
  | store _ hl hs _ ih =>
    rw [writeRequests, if_neg hl.ne]
    obtain ⟨-, -, hlen, hrow⟩ := hs
    rcases hrow with ⟨hb, hrow, rfl⟩ | ⟨hb, hwrap, hrow, rfl⟩ | ⟨hb, hwrap, hrow, rfl⟩ <;> rw [ih, hlen, hrow]
    · rw [if_pos hb]
    · rw [if_neg hb, if_pos hwrap]; rfl
    · rw [if_neg hb, if_neg hwrap]; rfl

/-- The row is the claims' (R121, R123, R124). -/
theorem WriteRun.row (hr : WriteRun pol bs h p) : p.inst.row.toNat = rowAfter bs h.len.toNat h.row.toNat := by
  induction hr with
  | done => rfl
  | full _ hl => rw [rowAfter, if_pos hl]
  | store _ hl hs _ ih =>
    rw [rowAfter, if_neg hl.ne]
    obtain ⟨-, -, hlen, hrow⟩ := hs
    rcases hrow with ⟨hb, hrow, -⟩ | ⟨hb, hwrap, hrow, -⟩ | ⟨hb, hwrap, hrow, -⟩ <;> rw [ih, hlen, hrow]
    · rw [if_pos hb]
    · rw [if_neg hb, if_pos hwrap]
    · rw [if_neg hb, if_neg hwrap]

end

end Sys2Proof.Machine
end

section
/-! PROOFS. The Engine's side of WRITE_VALUE (43_host_layer.md R120, R121; 70_reset_and_hazards.md R174): each request sends
one byte, and a list of them leaves the events of all. -/

namespace Sys2Proof.Machine

open Sys2Proof.Claims

@[simp] theorem hostEnd_trace (is : List Instr) (h : DevInst) (ds : List HostDiag) (rs : List Reply) (s : State) :
    (hostEnd is h ds rs s).trace = (serveAll is s).trace := rfl
@[simp] theorem hostEnd_diag (is : List Instr) (h : DevInst) (ds : List HostDiag) (rs : List Reply) (s : State) :
    (hostEnd is h ds rs s).diag = (serveAll is s).diag ++ ds.map .host := rfl
@[simp] theorem hostEnd_replies (is : List Instr) (h : DevInst) (ds : List HostDiag) (rs : List Reply) (s : State) :
    (hostEnd is h ds rs s).replies = (serveAll is s).replies ++ rs := rfl

/-- In READY request `j` runs and sends one byte, with the events the claims give it. -/
def SendsByte (j : Instr) : Prop :=
  InnerRequest j ∧ failedCheck .ready j = none ∧
    ∃ b rs, (∀ c, microProgram c j = byteOps b rs) ∧ eventsOfWrite j = byteEvents b rs

theorem writePlan_sendsByte {pol : RowPolicy} {bs : List Byte} {h : DevInst} {p : WritePlan}
    (hp : writePlan pol bs h = .ok p) : ∀ j ∈ p.requests, SendsByte j := by
  intro j hj
  have hin := writePlan_innerRequest hp j hj
  rcases writePlan_requests hp j hj with ⟨b, rfl⟩ | rfl | rfl
  · exact ⟨hin, rfl, b, true, fun _ => rfl, rfl⟩
  · exact ⟨hin, rfl, 0x80#8, false, fun _ => rfl, rfl⟩
  · exact ⟨hin, rfl, 0xC0#8, false, fun _ => rfl, rfl⟩

theorem SendsByte.serve_eq {j : Instr} {s : State} (hj : SendsByte j) (hs : Serving s) :
    serve j s = ran s (requestWord j) 18 (eventsOfWrite j) (replay s.lines (eventsOfWrite j)) := by
  obtain ⟨hin, hc, b, rs, hprog, hev⟩ := hj
  have hexec := exec_byteOps (hprog s.cfg) hin hs hc
  rw [exec_request hin.1] at hexec
  rw [hev, replay_byteEvents]
  exact Host.Outcome.next.inj hexec

/-- One request after another leaves the last one's word and the events of both. -/
theorem ran_ran (s : State) (v w : ReqWord) (m n : Nat) (es fs : List PinEvent) (L M : Byte) :
    ran (ran s v m es L) w n fs M = ran s w n (es ++ fs) M := by
  simp [ran]

theorem serveAll_eq_ran {is : List Instr} (his : ∀ j ∈ is, SendsByte j) (hne : is ≠ []) {s : State} (hs : Serving s) :
    ∃ w, serveAll is s = ran s w 18 (is.flatMap eventsOfWrite) (replay s.lines (is.flatMap eventsOfWrite)) := by
  induction is generalizing s with
  | nil => exact absurd rfl hne
  | cons j is ih =>
    obtain ⟨hj, his⟩ := List.forall_mem_cons.1 his
    rw [serveAll_cons, hj.serve_eq hs, List.flatMap_cons, replay_append]
    by_cases hnil : is = []
    · subst hnil
      exact ⟨requestWord j, by simp⟩
    · obtain ⟨w, hw⟩ := ih his hnil (s := ran s _ _ _ _) ⟨rfl, hs.2⟩
      exact ⟨w, by rw [hw, ran_ran]; rfl⟩

/-- From `s` to `t` the requests `is` of WRITE_VALUE ran, and nothing else happened. -/
structure Sent (is : List Instr) (s t : State) : Prop extends PortsKept s t where
  busy : t.busy = false
  lstate : t.lstate = s.lstate
  sticky : t.sticky = s.sticky
  diag : t.diag = s.diag
  err : t.err = if is = [] then s.err else .noError
  lines : t.lines = replay s.lines (is.flatMap eventsOfWrite)
  trace : t.trace = s.trace ++ is.flatMap eventsOfWrite
  same : is = [] → t = s

theorem serveAll_sent {is : List Instr} (his : ∀ j ∈ is, SendsByte j) {s : State} (hs : Serving s) :
    Sent is s (serveAll is s) := by
  by_cases hne : is = []
  · subst hne
    exact ⟨.refl s, hs.1, rfl, rfl, rfl, rfl, rfl, by simp, fun _ => rfl⟩
  · obtain ⟨w, hw⟩ := serveAll_eq_ran his hne hs
    rw [hw]
    exact ⟨⟨rfl, rfl, rfl, rfl, rfl, rfl, rfl⟩, rfl, rfl, rfl, rfl, (if_neg hne).symm, rfl, rfl, fun h => absurd h hne⟩

/-- BL and RW are as before, and EN is low again (R82, R84, R85). -/
structure RestKept (L M : Byte) : Prop where
  bl : level M .bl = level L .bl
  rw : level M .rw = level L .rw
  en : level L .en = false → level M .en = false

theorem restKept_linesWith (L : Byte) (v : Nibble) (rs : Bool) : RestKept L (linesWith L v rs) := by
  unfold linesWith
  refine ⟨?_, ?_, fun _ => ?_⟩ <;> rw [level_fields]
  · simp [level, Line.bit]
  · simp [level, Line.bit]
  · rfl

theorem restKept_replay {is : List Instr} (his : ∀ j ∈ is, SendsByte j) (L : Byte) :
    RestKept L (replay L (is.flatMap eventsOfWrite)) := by
  induction is generalizing L with
  | nil => exact ⟨rfl, rfl, id⟩
  | cons j is ih =>
    obtain ⟨⟨-, -, b, rs, -, hev⟩, his⟩ := List.forall_mem_cons.1 his
    rw [List.flatMap_cons, replay_append, hev, replay_byteEvents]
    have hbyte := restKept_linesWith L (b.extractLsb' 0 4) rs
    have hrest := ih his (linesWith L (b.extractLsb' 0 4) rs)
    exact ⟨hrest.bl.trans hbyte.bl, hrest.rw.trans hbyte.rw, hrest.en ∘ hbyte.en⟩

/-- Each byte on the lines takes 102 microseconds and 14 ticks (R101). -/
theorem durations_of_sendsByte {is : List Instr} (his : ∀ j ∈ is, SendsByte j) :
    traceMicros (is.flatMap eventsOfWrite) = is.length * 102 ∧
      traceTicks (is.flatMap eventsOfWrite) = is.length * 14 := by
  induction is with
  | nil => exact ⟨rfl, rfl⟩
  | cons j is ih =>
    obtain ⟨⟨-, -, b, rs, -, hev⟩, his⟩ := List.forall_mem_cons.1 his
    obtain ⟨hmicros, hticks⟩ := ih his
    have hbyte : traceMicros (byteEvents b rs) = 102 ∧ traceTicks (byteEvents b rs) = 14 := ⟨rfl, rfl⟩
    simp only [List.flatMap_cons, hev, traceMicros_append, traceTicks_append, hmicros, hticks, hbyte, List.length_cons]
    omega

theorem filter_isRowRequest_rowRequests (pol : RowPolicy) (r : Nat) :
    (rowRequests pol r).filter isRowRequest = rowRequests pol r := by
  unfold rowRequests
  split_ifs <;> rfl

/-- R174: the requests are one for each stored byte but newline, and the row changes. -/
theorem length_writeRequests (pol : RowPolicy) (bs : List Byte) {len : Nat} (hl : len ≤ 32) (row : Nat) :
    (writeRequests pol bs len row).length =
      ((bs.take (32 - len)).filter (· ≠ 0x0A#8)).length +
        ((writeRequests pol bs len row).filter isRowRequest).length := by
  induction bs generalizing len row with
  | nil => simp [writeRequests]
  | cons b bs ih =>
    by_cases hfull : len = 32
    · simp [writeRequests, hfull]
    · have hleft : 32 - len = (32 - (len + 1)) + 1 := by omega
      have ih := ih (len := len + 1) (by omega)
      rw [writeRequests, if_neg hfull, hleft, List.take_succ_cons]
      by_cases hb : b = 0x0A#8
      · rw [if_pos hb, List.length_append, List.filter_append, List.length_append, filter_isRowRequest_rowRequests,
          ih, List.filter_cons_of_neg (by simp [hb])]
        omega
      · rw [if_neg hb, List.filter_cons_of_pos (by simp [hb])]
        split_ifs
        · simp only [List.length_cons, List.filter_cons, isRowRequest, ih, if_true, Bool.false_eq_true, if_false]
          omega
        · simp only [List.length_cons, List.filter_cons, isRowRequest, ih, Bool.false_eq_true, if_false]
          omega

end Sys2Proof.Machine
end

section
/-! PROOFS. The statements on WRITE_VALUE, settled. -/

namespace Sys2Proof.Machine

open Sys2Proof.Claims

/-- WRITE_VALUE in READY on a good device: its requests run, and the device and the diagnostic are its run's. -/
theorem exec_writeValue {s : State} {h : DevInst} {bytes : List Byte} (ha : Attached s h) (hw : h.Wf) :
    ∃ p, WriteRun s.cfg.rowOverflow bytes h p ∧ (∀ j ∈ p.requests, SendsByte j) ∧
      exec (.writeValue bytes) s =
        .next (hostEnd p.requests p.inst (if p.full then [.bufferFull] else []) [] s) := by
  obtain ⟨⟨hb, -⟩, hh⟩ := ha
  obtain ⟨p, hp⟩ := writePlan_ok (pol := s.cfg.rowOverflow) (bs := bytes) hw.len_le
  refine ⟨p, writeRun_of_writePlan hw hp, writePlan_sendsByte hp, ?_⟩
  rw [exec, execWriteValue, dispatch_some hb hh, writeLoop_eq _ _ hb, hp, ← p.run_eq_hostEnd]

/-- Settles O43: the device's contents are the old bytes and the accepted ones. -/
theorem writeValueBuffer : Obligations.WriteValueBuffer := by
  intro s h bytes ha hw
  obtain ⟨p, hrun, his, hexec⟩ := exec_writeValue (bytes := bytes) ha hw
  have hsent := serveAll_sent his ha.1
  refine ⟨_, p.inst, hexec, rfl, hrun.len, fun i hi => ?_, fun k hk => ?_, hrun.wf.zero_above, ?_, ?_⟩
  · rw [hrun.wf.readCell_eq, hw.readCell_eq, hrun.contents, List.getD_append _ _ _ _ (by simpa using hi)]
  · rw [hrun.wf.readCell_eq, hrun.contents, List.getD_append_right _ _ _ _ (by simp), h.length_contents,
      Nat.add_sub_cancel_left, List.getD, List.getElem?_take_of_lt (lt_min_iff.1 hk).2, List.getD]
  · simp only [hostEnd_diag, hsent.diag, hrun.full_eq, decide_eq_true_eq]
    split <;> rfl
  · simp [hsent.replies]

/-- Settles O44: the trace is that of the requests, each of which sends one byte. -/
theorem writeValueRequests : Obligations.WriteValueRequests := by
  intro s h bytes ha hw
  obtain ⟨p, hrun, his, hexec⟩ := exec_writeValue (bytes := bytes) ha hw
  have htrace := (serveAll_sent his ha.1).trace
  obtain ⟨hmicros, hticks⟩ := durations_of_sendsByte his
  refine ⟨_, p.inst, hexec, rfl, hrun.row, by rw [hostEnd_trace, htrace, hrun.requests], ?_⟩
  rintro n r rfl rfl
  rw [hostEnd_trace, htrace, List.drop_left, hmicros, hticks, hrun.requests, length_writeRequests _ _ hw.len_le]
  exact ⟨rfl, rfl, rfl, rfl⟩

/-- Settles O45: the requests leave all this alone, and storing touches the device only. -/
theorem writeValueFrame : Obligations.WriteValueFrame := by
  intro s h bytes ha hw
  obtain ⟨p, hrun, his, hexec⟩ := exec_writeValue (bytes := bytes) ha hw
  have hsent := serveAll_sent his ha.1
  have hrest := restKept_replay his s.lines
  rw [← hsent.lines] at hrest
  rw [← hrun.requests]
  refine ⟨_, p.inst, hexec, rfl, hrun.wf.col_zero.trans hw.col_zero.symm, hsent.cfg, hsent.lstate, hsent.busy,
    hsent.sticky, hsent.err, fun hnone => ?_, hrest.bl, hrest.rw, hrest.en, hsent.reqValid, hsent.reqWord, hsent.acq,
    hsent.hostWait, hsent.inputs, ?_⟩
  · simp [hostEnd, hsent.same hnone]
  · simp [hsent.replies]

/-- Settles O47: the reply is the contents of the device WRITE_VALUE leaves. -/
theorem readAfterWriteReturnsTheBytes : Obligations.ReadAfterWriteReturnsTheBytes := by
  intro s h bytes ha hw
  obtain ⟨p, hrun, his, hexec⟩ := exec_writeValue (bytes := bytes) ha hw
  have hsent := serveAll_sent his ha.1
  refine ⟨_, _, p.inst.len, hexec, readValueResult _ p.inst hsent.busy rfl hrun.wf.len_le, ?_, hrun.len⟩
  change _ ++ [Reply.mk _ p.inst.contents] = _ ++ [Reply.mk _ (h.contents ++ _)]
  rw [hrun.contents, hostEnd_replies, hsent.replies, List.append_nil]

end Sys2Proof.Machine
end

section
/-! PROOFS. The statements on the order of events and on the idle machine (60_exceptions.md R149, R159), settled. -/

namespace Sys2Proof.Machine

/-- An ACQ event, whatever its outcome, leaves the ports alone (R110 to R112). -/
theorem takeAcq_portsKept (ok : Bool) (s : State) : PortsKept s (takeAcq ok s) := by
  rcases takeAcq_cases ok s with ⟨-, h⟩ | ⟨-, -, h⟩ | ⟨-, -, h⟩ <;> rw [h] <;>
    exact ⟨rfl, rfl, rfl, rfl, rfl, rfl, rfl⟩

theorem takeAcq_req (ok : Bool) (s : State) : (takeAcq ok s).req = s.req := by
  rcases takeAcq_cases ok s with ⟨-, h⟩ | ⟨-, -, h⟩ | ⟨-, -, h⟩ <;> rw [h] <;> rfl

/-- A quiet machine with nothing to deliver goes on to what the host does next. -/
theorem step_quiet {s : State} (h : Quiet s) (hd : deliver s = none) : step s = runInput s := by
  obtain ⟨hb, ha, hv, hw⟩ := h
  simp [step, stepOnce, hd, hb, ha, hv, hw]

theorem runInput_nil {s : State} (h : s.inputs = []) : runInput s = .next s := by simp [runInput, h]

/-- Settles O10: the step is the ACQ event, and that touches neither the ports nor `REQ`. -/
theorem acqGoesBeforeARequest : Obligations.AcqGoesBeforeARequest := by
  intro s ok hb ha hd
  have hkept := takeAcq_portsKept ok { s with acq := none }
  exact ⟨_, step_acq hb ha hd, rfl, hkept.acq, hkept.reqValid, hkept.reqWord, takeAcq_req ok _, takeAcq_busy ok _,
    hkept.inputs⟩

/-- Settles O13: the host has nothing to do next. -/
theorem idleMachineChangesNothing : Obligations.IdleMachineChangesNothing := fun _ hb ha hv hw hi =>
  (step_quiet ⟨hb, ha, hv, hw⟩ (deliver_nil hi)).trans (runInput_nil hi)

end Sys2Proof.Machine
end

section
/-! PROOFS. What moves a line (10_state.md R26): of all steps a tick, a successful ACQ and a call. -/

namespace Sys2Proof.Machine

/-- Completion drives no line (R88, R113). -/
@[simp] theorem complete_lines (i : Instr) (s : State) : (complete i s).lines = s.lines := by
  rcases complete_cases i s with ⟨-, h⟩ | ⟨-, h⟩ | ⟨-, -, h⟩ <;> rw [h] <;> rfl

@[simp] theorem completeCurrent_lines (s : State) : (completeCurrent s).lines = s.lines := by
  rcases completeCurrent_cases s with ⟨-, h⟩ | ⟨-, h⟩ | h <;> rw [h] <;> rfl

/-- A request waits on the port with the lines as they are (R28, R144). -/
@[simp] theorem acceptPort_lines (s : State) : (acceptPort s).lines = s.lines := by
  rcases acceptPort_cases s with ⟨_, -, -, h⟩ | ⟨_, -, h⟩ <;> rw [h] <;> rfl

/-- `t` comes from `s` by a successful ACQ, which takes the lines at their reset levels (R110). -/
def TookLines (s t : State) : Prop :=
  s.lstate = .off ∧ t.lstate = .uninit ∧ t.trace = s.trace ++ [.acquire (acquiredLevels s.cfg)]

theorem takeAcq_lines_or (ok : Bool) (s : State) :
    (takeAcq ok s).lines = s.lines ∨ TookLines s (takeAcq ok s) := by
  rcases takeAcq_cases ok s with ⟨-, h⟩ | ⟨ho, -, h⟩ | ⟨-, -, h⟩ <;> rw [h]
  · exact .inl rfl
  · exact .inr ⟨ho, rfl, rfl⟩
  · exact .inl rfl

theorem attach_lines_or (ok : Bool) (s : State) : (attach ok s).lines = s.lines ∨ TookLines s (attach ok s) := by
  rcases attach_cases ok s with ⟨ho, -, h⟩ | ⟨-, h⟩ <;> rw [h]
  · exact .inr ⟨ho, rfl, rfl⟩
  · exact takeAcq_lines_or ok s

/-- A step that moves a line is a tick, a successful ACQ, or the call of an instruction. -/
theorem step_lines_cases {s t : State} (h : step s = .next t) (hne : t.lines ≠ s.lines) :
    (s.busy = true ∧ t = engineTick s) ∨ (s.busy = false ∧ TookLines s t) ∨
    (s.busy = false ∧ ∃ c rest i, s.inputs = .call c :: rest ∧ decode s.cfg.hostCodes c = .ok i ∧
      exec i { s with inputs := rest } = .next t) := by
  rcases step_cases h with ⟨ok, rest, -, -, rfl⟩ | ⟨w, rest, -, -, -, rfl⟩ | ⟨hb, rfl⟩ | ⟨ok, hb, -, rfl⟩ |
    ⟨hb, -, -, rfl⟩ | ⟨-, -, -, -, rfl⟩ | ⟨c, rest, hq, hi, hc⟩ | ⟨ok, rest, hq, -, rfl⟩ | ⟨m, rest, -, -, rfl⟩ |
    ⟨-, rfl⟩
  · exact absurd rfl hne
  · exact absurd rfl hne
  · exact .inl ⟨hb, rfl⟩
  · exact .inr (.inl ⟨hb, (takeAcq_lines_or ok _).resolve_left hne⟩)
  · exact absurd (acceptPort_lines s) hne
  · exact absurd rfl hne
  · rcases runCall_cases hc with ⟨i, hd, he⟩ | ⟨w, r, -, -, rfl⟩
    · exact .inr (.inr ⟨hq.1, c, rest, i, hi, hd, he⟩)
    · rw [rejectWord_idle (s := { s with inputs := rest }) hq.1] at hne
      exact absurd rfl hne
  · exact .inr (.inl ⟨hq.1, (attach_lines_or ok _).resolve_left hne⟩)
  · exact absurd rfl hne
  · exact absurd rfl hne

end Sys2Proof.Machine
end

section
/-! PROOFS. The lines the controller samples (40_line_driver.md R82): no micro-program drives one of them while EN is high,
so no tick of a good request moves one, and no other step begins with EN high. -/

namespace Sys2Proof.Machine

open Sys2Proof.Claims

/-! Micro-programs. -/

/-- The micro-operation drives one of the lines the controller samples (R86). -/
def drivesSampled : MicroOp → Bool
  | .setLine l _ => l ∈ [Line.rs, .d4, .d5, .d6, .d7]
  | .wait _ => false

/-- None of the micro-operations, which start with EN at `en`, drives a sampled line while EN is high. -/
def holdsSampled : Bool → List MicroOp → Bool
  | _, [] => true
  | en, op :: ops => !(en && drivesSampled op) && holdsSampled (enAfter en [op]) ops

theorem enAfter_cons (en : Bool) (op : MicroOp) (ops : List MicroOp) :
    enAfter en (op :: ops) = enAfter (enAfter en [op]) ops := enAfter_append en [op] ops

@[simp] theorem holdsSampled_append (en : Bool) (xs ys : List MicroOp) :
    holdsSampled en (xs ++ ys) = (holdsSampled en xs && holdsSampled (enAfter en xs) ys) := by
  induction xs generalizing en with
  | nil => rfl
  | cons x xs ih => rw [List.cons_append, holdsSampled, holdsSampled, ih, enAfter_cons en x xs, Bool.and_assoc]

@[simp] theorem holdsSampled_nil (en : Bool) : holdsSampled en [] = true := rfl

@[simp] theorem holdsSampled_wait (en : Bool) (t : Nat) (ops : List MicroOp) :
    holdsSampled en (.wait t :: ops) = holdsSampled en ops := by
  simp [holdsSampled, drivesSampled, enAfter]

/-- A nibble sets up RS and the data before its strobe and leaves them alone in it (R89). -/
@[simp] theorem holdsSampled_nibbleOps (v : Nibble) (rs : Bool) : holdsSampled false (nibbleOps v rs) = true := rfl

@[simp] theorem holdsSampled_byteOps (b : Byte) (rs : Bool) : holdsSampled false (byteOps b rs) = true := by
  simp [byteOps]

@[simp] theorem holdsSampled_commandOps (b : Byte) : holdsSampled false (commandOps b) = true :=
  holdsSampled_byteOps ..

@[simp] theorem holdsSampled_settledCommandOps (b : Byte) : holdsSampled false (settledCommandOps b) = true := by
  simp [settledCommandOps]

theorem holdsSampled_initOps (emit0C : Bool) : holdsSampled false (initOps emit0C) = true := by
  cases emit0C <;> simp [initOps]

/-- R82: every micro-program holds the sampled lines while EN is high. -/
theorem holdsSampled_microProgram (c : Config) (i : Instr) : holdsSampled false (microProgram c i) = true := by
  cases i with
  | writeNibble => exact holdsSampled_nibbleOps ..
  | writeByte | setCursorRow => exact holdsSampled_byteOps ..
  | init => exact holdsSampled_initOps ..
  | clearScreen | cursorReturn | shift => exact holdsSampled_settledCommandOps ..
  | detach => exact holdsSampled_settledCommandOps 0x01#8
  | setBacklight | writeValue | readValue | hostClearScreen | backlightOn | backlightOff | hostShift | hostCursorReturn
  | hostUnrecognized => rfl

/-- The micro-operation that comes where EN is high drives no sampled line. -/
theorem drivesSampled_of_en {en : Bool} {ops : List MicroOp} {k : Nat} {op : MicroOp}
    (h : holdsSampled en ops = true) (hop : ops[k]? = some op) (hen : enAfter en (ops.take k) = true) :
    drivesSampled op = false := by
  induction ops generalizing en k with
  | nil => cases hop
  | cons x ops ih =>
    simp only [holdsSampled, Bool.and_eq_true] at h
    cases k with
    | zero =>
      cases hop
      cases hen
      simpa using h.1
    | succ k =>
      rw [List.take_succ_cons, enAfter_cons] at hen
      exact ih h.2 hop hen

/-! Ticks. -/

/-- The event of a micro-operation that drives no sampled line. -/
theorem sameSampled_levelsAfter {op : MicroOp} (h : drivesSampled op = false) (L : Byte) :
    sameSampled L (levelsAfter L op.event) := by
  intro k hk
  cases op with
  | wait => rfl
  | setLine l v =>
    have hl : l ≠ k := fun e => of_decide_eq_false h (e ▸ hk)
    simp [MicroOp.event, levelsAfter, hl]

/-- R82 over a tick of a good request. -/
theorem RunningOk.sameSampled_tick {s : State} {i : Instr} (h : RunningOk s i) (hen : level s.lines .en = true) :
    sameSampled s.lines (engineTick s).lines := by
  rcases h.tick_cases with ⟨n, t, -, he⟩ | ⟨op, hop, -, he⟩ | ⟨-, he⟩ <;> rw [he]
  · exact fun _ _ => rfl
  · rw [perform_eq_drive]
    exact sameSampled_levelsAfter
      (drivesSampled_of_en (holdsSampled_microProgram s.cfg i) hop (h.en_level ▸ hen)) s.lines
  · rw [complete_lines]
    exact fun _ _ => rfl

/-- Settles O20: EN is high in a running request only, whose micro-program then holds the sampled lines. -/
theorem sampledLinesHoldWhileEnabled : Obligations.SampledLinesHoldWhileEnabled := by
  intro s t hs h
  refine ⟨hs.idle_en, fun hen => ?_⟩
  have hb : s.busy = true := by
    by_contra hb
    simp [hs.idle_en (by simpa using hb)] at hen
  refine ⟨hb, ?_⟩
  by_cases hl : t.lines = s.lines
  · exact fun _ _ => hl ▸ rfl
  · rcases step_lines_cases h hl with ⟨-, rfl⟩ | ⟨hidle, -⟩ | ⟨hidle, -⟩
    · obtain ⟨i, hi⟩ := hs.busy_runs hb
      exact hi.sameSampled_tick hen
    all_goals exact absurd hb (by simp [hidle])

end Sys2Proof.Machine
end

section
/-! PROOFS. Which requests each host command issues (43_host_layer.md R121 to R134). -/

namespace Sys2Proof.Machine

open Sys2Proof.Claims

/-- Host command `i` can issue request `j`. -/
def Issues (i j : Instr) : Prop :=
  match i with
  | .writeValue _ => (∃ b, j = .writeByte .data b) ∨ j = .setCursorRow 0#8 ∨ j = .setCursorRow 1#8
  | .hostClearScreen => j = .clearScreen
  | .backlightOn => j = .setBacklight true
  | .backlightOff => j = .setBacklight false
  | .hostShift tgt dir => j = .shift tgt dir
  | .hostCursorReturn => j = .cursorReturn
  | _ => False

/-- Host command `i` leads from `s` to `t`: it issues its requests, and the row of the device never decreases but by
CLEAR (R118). -/
def HostRunOf (i : Instr) (s t : State) : Prop :=
  ∃ is inst inst' ds rs, s.host = some inst ∧ (∀ j ∈ is, Issues i j) ∧
    (i ≠ .hostClearScreen → inst.Wf → inst.row.toNat ≤ inst'.row.toNat) ∧ t = hostEnd is inst' ds rs s

/-- A host command that issues one request and leaves the device alone. -/
theorem hostRunOf_of_serve {i j : Instr} {s t : State} (hij : Issues i j) (hj : j ≠ .detach) (hb : s.busy = false)
    (h : dispatch (fun _ s' => .next (serve j s')) s = .next t) : HostRunOf i s t := by
  obtain ⟨inst, hh, hk⟩ := dispatch_next hb h
  cases hk
  exact ⟨[j], inst, inst, [], [], hh, by simpa using hij, fun _ _ => le_rfl,
    by rw [← serve_withInst hj hb, withInst_self hh]⟩

/-- WRITE_VALUE never lowers the row (R118). -/
theorem le_rowAfter (bs : List Byte) (len row : Nat) : row ≤ rowAfter bs len row := by
  induction bs generalizing len row with
  | nil => exact le_rfl
  | cons b bs ih =>
    rw [rowAfter]
    split_ifs with _ _ hwrap
    · exact le_rfl
    · exact (Nat.le_succ row).trans (ih _ _)
    · exact (hwrap.1 ▸ Nat.zero_le 1).trans (ih _ _)
    · exact ih _ _

/-- Everything a host command that answers a next state can have done, by the command. -/
theorem exec_hostRunOf {i : Instr} {s t : State} (hi : i.isRequest = false) (hb : s.busy = false)
    (h : exec i s = .next t) : HostRunOf i s t := by
  cases i with
  | writeValue bytes =>
    obtain ⟨inst, hh, hk⟩ := dispatch_next hb h
    rw [writeLoop_eq _ _ hb] at hk
    split at hk <;> cases hk
    rename_i p hp
    exact ⟨_, inst, _, _, _, hh, writePlan_requests hp,
      fun _ hw => (writeRun_of_writePlan hw hp).row ▸ le_rowAfter _ _ _, p.run_eq_hostEnd s⟩
  | readValue =>
    rw [exec, execReadValue] at h
    obtain ⟨inst, hh, hk⟩ := dispatch_next hb h
    split at hk <;> cases hk
    rename_i bytes _
    exact ⟨[], inst, inst, [], [⟨inst.len, bytes⟩], hh, by simp, fun _ _ => le_rfl, by simp [hostEnd, withInst_self hh]⟩
  | hostClearScreen =>
    rw [exec, execHostClearScreen] at h
    obtain ⟨inst, hh, hk⟩ := dispatch_next hb h
    cases hk
    exact ⟨[.clearScreen], inst, _, [], [], hh, by simp [Issues], fun h => absurd rfl h, serve_withInst nofun hb⟩
  | hostUnrecognized code payload =>
    rw [exec, execHostUnrecognized] at h
    obtain ⟨inst, hh, hk⟩ := dispatch_next hb h
    cases hk
    exact ⟨[], inst, inst, [.unrecognizedCommand], [], hh, by simp, fun _ _ => le_rfl,
      by simp [hostEnd, withInst_self hh, emit]⟩
  | backlightOn => exact hostRunOf_of_serve (j := .setBacklight true) rfl nofun hb h
  | backlightOff => exact hostRunOf_of_serve (j := .setBacklight false) rfl nofun hb h
  | hostShift tgt dir => exact hostRunOf_of_serve (j := .shift tgt dir) rfl nofun hb h
  | hostCursorReturn => exact hostRunOf_of_serve (j := .cursorReturn) rfl nofun hb h
  | _ => cases hi

end Sys2Proof.Machine
end

section
/-! PROOFS. BL and its writers (40_line_driver.md R85). -/

namespace Sys2Proof.Machine

@[simp] theorem setBl_not_mem_nibbleOps (n : Nibble) (rs v : Bool) : .setLine .bl v ∉ nibbleOps n rs := by
  simp [nibbleOps, strobeOps]

@[simp] theorem setBl_not_mem_byteOps (b : Byte) (rs v : Bool) : .setLine .bl v ∉ byteOps b rs := by
  simp [byteOps]

@[simp] theorem setBl_not_mem_settledCommandOps (b : Byte) (v : Bool) : .setLine .bl v ∉ settledCommandOps b := by
  simp [settledCommandOps, commandOps]

theorem setBl_not_mem_initOps (emit0C v : Bool) : .setLine .bl v ∉ initOps emit0C := by
  cases emit0C <;> simp [initOps, commandOps]

/-- R85: the micro-programs that drive BL. -/
theorem setBl_mem_microProgram {c : Config} {i : Instr} {v : Bool} (h : .setLine .bl v ∈ microProgram c i) :
    i = .setBacklight v ∨ (i = .detach ∧ v = false) := by
  cases i with
  | setBacklight on =>
    cases List.mem_singleton.1 h
    exact .inl rfl
  | detach =>
    rcases List.mem_cons.1 h with h | h
    · cases h
      exact .inr ⟨rfl, rfl⟩
    · exact absurd h (setBl_not_mem_settledCommandOps _ _)
  | writeNibble => exact absurd h (setBl_not_mem_nibbleOps _ _ _)
  | writeByte | setCursorRow => exact absurd h (setBl_not_mem_byteOps _ _ _)
  | init => exact absurd h (setBl_not_mem_initOps _ _)
  | clearScreen | cursorReturn | shift => exact absurd h (setBl_not_mem_settledCommandOps _ _)
  | writeValue | readValue | hostClearScreen | backlightOn | backlightOff | hostShift | hostCursorReturn
  | hostUnrecognized => cases h

/-- Every other request leaves BL as it was, whether it runs or is rejected (R85, R146). -/
theorem serveIdle_bl {i : Instr} (hset : ∀ v, i ≠ .setBacklight v) (hdetach : i ≠ .detach) (s : State) :
    level (serveIdle i s).lines .bl = level s.lines .bl := by
  rcases hc : failedCheck s.lstate i with _ | c
  · rw [serveIdle_ran hc, complete_lines]
    refine level_replay_of_not_mem _ _ _ fun v hv => ?_
    rcases setBl_mem_microProgram hv with h | ⟨h, -⟩
    · exact hset v h
    · exact hdetach h
  · rw [serveIdle_rejected hc]

/-- The host commands that issue SET_BACKLIGHT (R130, R131); none issues DETACH. -/
theorem Issues.ne_setBacklight {i j : Instr} (h : Issues i j) (hon : i ≠ .backlightOn) (hoff : i ≠ .backlightOff) :
    (∀ v, j ≠ .setBacklight v) ∧ j ≠ .detach := by
  cases i with
  | writeValue => rcases h with ⟨b, rfl⟩ | rfl | rfl <;> exact ⟨nofun, nofun⟩
  | hostClearScreen | hostShift | hostCursorReturn => cases h; exact ⟨nofun, nofun⟩
  | backlightOn => exact absurd rfl hon
  | backlightOff => exact absurd rfl hoff
  | _ => exact h.elim

/-- An instruction that moves BL (R85, R130, R131). -/
theorem exec_bl {i : Instr} {s t : State} (hb : s.busy = false) (h : exec i s = .next t)
    (hne : level t.lines .bl ≠ level s.lines .bl) :
    (∃ v, i = .setBacklight v) ∨ i = .detach ∨ i = .backlightOn ∨ i = .backlightOff := by
  by_contra hi
  simp only [not_or, not_exists] at hi
  obtain ⟨hset, hdetach, hon, hoff⟩ := hi
  refine hne ?_
  rcases hr : i.isRequest with _ | _
  · obtain ⟨is, _, _, _, _, -, his, -, rfl⟩ := exec_hostRunOf hr hb h
    refine serveAll_rel (R := fun s t => level t.lines .bl = level s.lines .bl) (fun _ => rfl)
      (fun h1 h2 => h2.trans h1) (fun j hj s => ?_) hb
    obtain ⟨h1, h2⟩ := (his j hj).ne_setBacklight hon hoff
    exact serveIdle_bl h1 h2 s
  · rw [exec_request hr, serve_idle hb] at h
    cases h
    exact serveIdle_bl hset hdetach s

/-- A micro-operation of the current program is one of a decoded request's. -/
theorem mem_currentProgram {s : State} {op : MicroOp} (h : op ∈ currentProgram s) :
    ∃ i, decodeRequest s.req = .ok i ∧ op ∈ microProgram s.cfg i := by
  rcases hr : running s with _ | i
  · simp [currentProgram, hr] at h
  · exact ⟨i, running_eq_some hr, currentProgram_eq hr ▸ h⟩

/-- A tick that moves BL (R85). -/
theorem engineTick_bl {s : State} (hne : level (engineTick s).lines .bl ≠ level s.lines .bl) :
    ∃ v, (engineTick s).trace = s.trace ++ [.set .bl v] ∧
      (decodeRequest s.req = .ok (.setBacklight v) ∨ (decodeRequest s.req = .ok .detach ∧ v = false)) := by
  rcases engineTick_cases s with ⟨-, he⟩ | ⟨-, he⟩ | ⟨-, l, v, hop, he⟩ | ⟨-, t, -, -, he⟩ | ⟨-, t, -, -, he⟩ |
    ⟨-, -, he⟩ <;> rw [he] at hne ⊢
  · exact absurd rfl hne
  · exact absurd rfl hne
  · have hl : l = .bl := by
      by_contra hl
      simp [hl] at hne
    subst hl
    obtain ⟨i, hd, hi⟩ := mem_currentProgram (List.mem_of_getElem? hop)
    refine ⟨v, rfl, ?_⟩
    rcases setBl_mem_microProgram hi with rfl | ⟨rfl, hv⟩
    · exact .inl hd
    · exact .inr ⟨hd, hv⟩
  · exact absurd rfl hne
  · exact absurd rfl hne
  · exact absurd (by rw [completeCurrent_lines]) hne

/-- Settles O19: by the micro-programs, and by the steps that move a line. -/
theorem backlightHasThreeWriters : Obligations.BacklightHasThreeWriters := by
  refine ⟨fun _ _ _ => setBl_mem_microProgram, setBl_not_mem_nibbleOps, fun s i hr hb hset hdetach => ?_,
    fun s t h hne => ?_⟩
  · exact ⟨serveIdle i s, by rw [exec_request hr, serve_idle hb], serveIdle_bl hset hdetach s⟩
  · rcases step_lines_cases h (fun hl => hne (by rw [hl])) with ⟨hb, rfl⟩ | ⟨-, htook⟩ | ⟨hb, c, rest, i, hi, hd, he⟩
    · exact .inr (.inl ⟨hb, engineTick_bl hne⟩)
    · exact .inl htook
    · exact .inr (.inr ⟨hb, c, rest, i, hi, hd, exec_bl (s := { s with inputs := rest }) hb he hne⟩)

end Sys2Proof.Machine
end

section
/-! PROOFS. Host commands over the latch trace and over the device (70_reset_and_hazards.md R168, 43_host_layer.md R118). -/

namespace Sys2Proof.Machine

open Sys2Proof.Claims

/-- From `s` to `t` an even number of nibbles was latched, where `LINES` is what the trace says, and it still is. -/
def PairsKept (s t : State) : Prop :=
  replay 0x00#8 s.trace = s.lines →
    replay 0x00#8 t.trace = t.lines ∧ ∃ ls, t.latches = s.latches ++ ls ∧ ls.length % 2 = 0

theorem PairsKept.of_eq {s t : State} (hl : t.lines = s.lines) (ht : t.trace = s.trace) : PairsKept s t := fun h =>
  ⟨by rw [ht, hl, h], [], by simp [State.latches, ht], rfl⟩

theorem PairsKept.trans {s t u : State} (h1 : PairsKept s t) (h2 : PairsKept t u) : PairsKept s u := fun h => by
  obtain ⟨ht, ls, hls, hpair⟩ := h1 h
  obtain ⟨hu, ms, hms, hpair'⟩ := h2 ht
  exact ⟨hu, ls ++ ms, by rw [hms, hls, List.append_assoc], by rw [List.length_append]; omega⟩

/-- Completion appends no event that moves a line (R88, R113). -/
theorem replay_complete_trace (L : Byte) (i : Instr) (s : State) :
    replay L (complete i s).trace = replay L s.trace := by
  rcases complete_cases i s with ⟨-, h⟩ | ⟨-, h⟩ | ⟨-, -, h⟩ <;> rw [h]
  · rfl
  · simp [replay_append, levelsAfter]
  · rfl

/-- A request that latches an even number of nibbles when it runs; rejected it latches none. -/
theorem serveIdle_pairsKept {i : Instr} {s : State} (hi : (latchesOf s.cfg.initEmit0C i).length % 2 = 0) :
    PairsKept s (serveIdle i s) := by
  rcases hc : failedCheck s.lstate i with _ | c
  · refine fun h => ⟨?_, _, serveIdle_latches hc h, hi⟩
    rw [serveIdle_ran hc, replay_complete_trace, complete_lines, replay_append, h]
  · rw [serveIdle_rejected hc]
    exact .of_eq rfl rfl

/-- No host command issues a single nibble: its requests send whole bytes, or none (R121 to R133). -/
theorem Issues.length_latchesOf {i j : Instr} (h : Issues i j) (e : Bool) :
    (latchesOf e j).length = 2 ∨ (latchesOf e j).length = 0 := by
  cases i with
  | writeValue => rcases h with ⟨b, rfl⟩ | rfl | rfl <;> exact .inl rfl
  | hostShift tgt dir =>
    cases h
    cases tgt <;> cases dir <;> exact .inl rfl
  | hostClearScreen | hostCursorReturn => cases h; exact .inl rfl
  | backlightOn | backlightOff => cases h; exact .inr rfl
  | _ => exact h.elim

theorem HostRunOf.pairsKept {i : Instr} {s t : State} (h : HostRunOf i s t) (hb : s.busy = false) : PairsKept s t := by
  obtain ⟨is, _, _, _, _, -, his, -, rfl⟩ := h
  have hall : PairsKept s (serveAll is s) :=
    serveAll_rel (fun _ => .of_eq rfl rfl) .trans (fun j hj s => serveIdle_pairsKept (by
      rcases (his j hj).length_latchesOf s.cfg.initEmit0C with h | h <;> rw [h])) hb
  exact hall.trans (.of_eq rfl rfl)

/-- A host command on a good device answers a next state (R143). -/
theorem exec_next_of_attached {i : Instr} {s : State} {h : DevInst} (hb : s.busy = false) (hh : s.host = some h)
    (hw : h.Wf) : ∃ t, exec i s = .next t := by
  rcases exec_next_or_refused (i := i) hb (fun k hk => Option.some.inj (hh.symm.trans hk) ▸ hw) with ht | ⟨-, hn⟩
  · exact ht
  · simp [State.inst, hh] at hn

/-- Settles O56: each request of the command sends whole bytes. -/
theorem hostCommandsKeepNibblePairs : Obligations.HostCommandsKeepNibblePairs := by
  rintro s h i hi ⟨⟨hb, -⟩, hh⟩ hw hl -
  obtain ⟨t, ht⟩ := exec_next_of_attached (i := i) hb hh hw
  obtain ⟨-, ls, hls, hpair⟩ := (exec_hostRunOf hi hb ht).pairsKept hb hl
  exact ⟨t, ls, ht, hls, hpair⟩

/-- Settles O55: the device keeps R118, and only CLEAR lowers its row. -/
theorem hostCommandsKeepR118 : Obligations.HostCommandsKeepR118 := by
  intro s t h i hi hb hh hw ht
  obtain ⟨_, _, h', _, _, hh', -, hwf, rfl⟩ := exec_hostRun hi hb ht
  obtain ⟨_, _, _, _, _, hh'', -, hrow, he⟩ := exec_hostRunOf hi hb ht
  cases hh.symm.trans hh'
  cases hh.symm.trans hh''
  cases Option.some.inj (congrArg State.host he)
  have hw' := hwf hw
  exact ⟨h', rfl, hw', hw'.len_le, hw'.zero_above, hw'.row_le_len.trans hw'.len_le, hw'.first_row, fun hi => hrow hi hw⟩

end Sys2Proof.Machine
end

section
/-! PROOFS. What a micro-program costs (41_protocol_engine.md R101, 42_init_sequencer.md R108): the costs of its parts,
added. -/

namespace Sys2Proof.Machine

open Sys2Proof.Claims

@[simp] theorem strobeCount_append (xs ys : List MicroOp) :
    strobeCount (xs ++ ys) = strobeCount xs + strobeCount ys := by
  fun_induction strobeCount xs with
  | case1 => simp
  | case2 xs ih => simp [strobeCount, ih, Nat.add_right_comm]
  | case3 op xs hop ih => simpa [strobeCount, hop] using ih

@[simp] theorem minMicros_append (xs ys : List MicroOp) : minMicros (xs ++ ys) = minMicros xs + minMicros ys := by
  induction xs with
  | nil => simp [minMicros]
  | cons x xs ih => cases x <;> simp [minMicros, ih, Nat.add_assoc]

@[simp] theorem minTicks_append (xs ys : List MicroOp) : minTicks (xs ++ ys) = minTicks xs + minTicks ys := by
  induction xs with
  | nil => simp [minTicks]
  | cons x xs ih => cases x <;> simp [minTicks, ih, Nat.add_right_comm]

@[simp] theorem costs_append (xs ys : List MicroOp) : costs (xs ++ ys) = costs xs + costs ys := by
  simp [costs]

@[simp] theorem costs_nil : costs [] = 0 := rfl

@[simp] theorem costs_wait (t : Nat) (ops : List MicroOp) : costs (.wait t :: ops) = (1, 0, t, 0) + costs ops :=
  costs_append [.wait t] ops

@[simp] theorem costs_nibbleOps (v : Nibble) (rs : Bool) : costs (nibbleOps v rs) = (9, 1, 51, 7) := rfl

@[simp] theorem costs_byteOps (b : Byte) (rs : Bool) : costs (byteOps b rs) = (18, 2, 102, 14) := by
  simp [byteOps]

@[simp] theorem costs_commandOps (b : Byte) : costs (commandOps b) = (18, 2, 102, 14) := costs_byteOps ..

@[simp] theorem costs_settledCommandOps (b : Byte) : costs (settledCommandOps b) = (19, 2, 2102, 14) := by
  simp [settledCommandOps, tSettle]

/-- Settles O21: each micro-program is a nibble, a byte, a settled command or one `SetLine`. -/
theorem requestCostsAreR101 : Obligations.RequestCostsAreR101 := fun _ _ _ _ _ _ _ =>
  ⟨costs_nibbleOps .., costs_byteOps .., costs_settledCommandOps _, costs_settledCommandOps _,
    costs_settledCommandOps _, fun _ => costs_commandOps _, rfl, fun _ _ _ hr hb hc => exec_rejected hr hb hc⟩

/-- Settles O22: four nibbles and the handshake's waits, then six bytes or five, one of them with its settle wait. -/
theorem initCostsAreR108 : Obligations.InitCostsAreR108 := by
  constructor <;> simp [initOps, tInit1, tInit2, tInit3]

end Sys2Proof.Machine
end
